-- ==== Sys2Proof/Word.lean ====
section
/-! DEFINITION. The word and byte types of the engine (00_scope.md R12, R13). -/

namespace Sys2Proof

/-- A 32-bit word: a State word, a command word, a register value (00_scope.md R12, R13). -/
abbrev Word := BitVec 32

/-- One byte of a data stream or of the keystream buffer. -/
abbrev Byte := BitVec 8

end Sys2Proof
end

