-- ==== Sys2Proof/Config.lean ====
section
/-! DEFINITION. The build parameters (00_scope.md R7 to R11). XORW is left out, as R10 allows: no rule
reads it. No value of this hardware is left free: see INVENTORY.md, '## State'. -/

namespace Sys2Proof

/-- B, the batch width in blocks: "exactly two legal values, 1 and 4" (00_scope.md R7). -/
inductive BatchWidth where
  | one
  | four
  deriving DecidableEq, Repr

/-- The number B (00_scope.md R7). -/
def BatchWidth.blocks : BatchWidth → Nat
  | .one => 1
  | .four => 4

/-- What a build of the engine fixes: B (00_scope.md R7) and TEST_ACCESS (00_scope.md R11). -/
structure Config where
  batch      : BatchWidth
  testAccess : Bool
  deriving DecidableEq, Repr

/-- CAP, the keystream buffer's capacity in bytes, `64 * B` (00_scope.md R8). -/
def Config.cap (c : Config) : Nat :=
  64 * c.batch.blocks

/-- The build that State.reset shows (DESIGN CHOICE, log 1: the spec leaves both parameters open). -/
def Config.shown : Config :=
  { batch := .one, testAccess := true }

end Sys2Proof
end

