-- ==== Sys2Proof/Machine/State.lean ====
section
/-! DEFINITION. The state of the engine (10_state.md R37) and the host's side of its ports, as plain data,
and the state after reset. -/

namespace Sys2Proof.Machine

/-- The 16 words of the State word file, `S[0]` to `S[15]` (10_state.md R20, R21). -/
abbrev Words := Vector Word 16

/-- The keystream buffer KSB (10_state.md R25): its bytes by offset, offsets strictly rising. An offset
that is not listed has no value (10_state.md R26, log 3). -/
abbrev Memory := List Host.Cell

/-- The state. INITD is `words.isSome` (10_state.md R24, log 2); STATUS and CONFIG are assembled from
their fields (10_state.md R30, R33). -/
structure State where
  /-- The build, CONFIG's fields: hardwired, no command and no reset changes it (10_state.md R33). -/
  cfg     : Config
  /-- S[0..15]; `none` is "unset", the spec's value before the first INIT (10_state.md R24, R37). -/
  words   : Option Words
  /-- KSB (10_state.md R25). -/
  ksb     : Memory
  /-- OFFSET, a natural 0..CAP (10_state.md R27, R37). -/
  offset  : Nat
  /-- NDR (10_state.md R29). -/
  ndr     : BitVec 8
  /-- STATUS.HALT (10_state.md R30). -/
  halt    : Bool
  /-- STATUS.CAUSE (10_state.md R30). -/
  cause   : BitVec 4
  /-- ERRCMD (10_state.md R31). -/
  errcmd  : Word
  /-- The reset input is asserted (70_reset_and_hazards.md R260, log 7). -/
  resetIn : Bool
  /-- Command words the host offers, oldest first (20_memory.md R70, 30_encoding.md R80). -/
  cmdIn   : List Word
  /-- Data-in bytes offered and not yet taken, oldest first (20_memory.md R60). -/
  dataIn  : List Byte
  /-- Data-out bytes sent, oldest first (20_memory.md R60). -/
  dataOut : List Byte
  /-- How many more data-out bytes the host accepts; `none`: every one, the host's duty of
  70_reset_and_hazards.md R264 (log 5). -/
  outRoom : Option Nat
  deriving DecidableEq, Repr

/-- Why the machine stops. An error of 60_exceptions.md R221 is none of these: it is a next state with
HALT set. -/
inductive Fault where
  /-- Raised by INIT, APPLY and WRCTR when fewer data-in bytes are offered than the command takes: "the
  engine is stuck, not faulted" (70_reset_and_hazards.md R264, log 4). The state is the one before the
  command. Safe. -/
  | stuckDataIn
  /-- Raised by APPLY and RDREG when the host accepts fewer data-out bytes than the command sends
  (70_reset_and_hazards.md R264, log 5). Safe. -/
  | stuckDataOut
  /-- Raised by APPLY where it would read a KSB offset that holds no value; no run reaches it (10_state.md
  R26, log 3). Safe. -/
  | keystreamUnset
  /-- Raised by APPLY where its loop never ends, which takes OFFSET > CAP; no run reaches it (10_state.md
  R28, log 11). Safe. -/
  | applyStuck
  deriving DecidableEq, Repr

/-- Why a command is refused. -/
inductive Refusal where
  /-- Raised by an arm of exec whose command has no meaning yet; no arm does. Safe. -/
  | notModelled (mnemonic : String)
  deriving DecidableEq, Repr

/-- What a step or a command answers. -/
abbrev Result := Host.Outcome State Fault Refusal

/-- The engine of build `c` right after reset (10_state.md R37), with nothing offered by the host. -/
def State.resetOf (c : Config) : State where
  cfg := c
  words := none
  ksb := []
  offset := c.cap
  ndr := 10
  halt := false
  cause := 0
  errcmd := 0
  resetIn := false
  cmdIn := []
  dataIn := []
  dataOut := []
  outRoom := none

/-- The machine right after reset (70_reset_and_hazards.md R260), in the build of log 1. -/
def State.reset : State :=
  State.resetOf Config.shown

/-- STATUS.INITD, "State words hold values" (10_state.md R24, R30). -/
def State.initd (s : State) : Bool :=
  s.words.isSome

end Sys2Proof.Machine
end

