-- ==== Sys2Proof/Machine/HostPort.lean ====
section
/-! DEFINITION. What the host can do to the engine (70_reset_and_hazards.md R260, R263, R264). Each lands
between two steps. -/

namespace Sys2Proof.Machine

/-- The host offers one more command word. -/
def State.hostIssue (w : Word) (s : State) : State :=
  { s with cmdIn := s.cmdIn ++ [w] }

/-- The host sends data-in bytes. -/
def State.hostSend (bytes : List Byte) (s : State) : State :=
  { s with dataIn := s.dataIn ++ bytes }

/-- The host says how many more data-out bytes it accepts; `none`: every one. -/
def State.hostAccepts (room : Option Nat) (s : State) : State :=
  { s with outRoom := room }

/-- The host asserts reset. -/
def State.hostReset (s : State) : State :=
  { s with resetIn := true }

end Sys2Proof.Machine
end

