-- ==== Sys2Proof/Syntax.lean ====
section
/-! DEFINITION. The commands of the engine (30_encoding.md R82 to R86): one constructor per row of
spec/opcode_table.json. Their fields are the fields of the command word, with the width it gives them. -/

namespace Sys2Proof

/-- A decoded command. Field-value checks (NDR = 0, a reserved register index) come after decoding
(30_encoding.md R87), so every field value is a command. -/
inductive Instr where
  /-- INIT: load a new CipherStream with `ndr` double rounds per block (R82, R192). -/
  | init (ndr : BitVec 8)
  /-- APPLY: XOR `len` bytes with the keystream (R83, R171). -/
  | apply (len : BitVec 24)
  /-- RDREG: read the register of index `reg` (R84, R200). -/
  | rdreg (reg : BitVec 5)
  /-- WRCTR: write the block counter (R85, R203). -/
  | wrctr
  deriving DecidableEq, Repr

end Sys2Proof
end

