-- ==== Sys2Proof/Decode.lean ====
section
/-! DEFINITION. Decoding a command word (30_encoding.md R81 to R90), total, and the encoder. -/

namespace Sys2Proof

/-- Why a word is no command (30_encoding.md R87, R89). -/
inductive DecodeError where
  | illegalOpcode
  | reservedField
  deriving DecidableEq, Repr

/-- OP, bits 3:0 of every format (30_encoding.md R81). -/
def opField (w : Word) : BitVec 4 := w.extractLsb' 0 4

/-- RSV0, bits 7:4 of every format (30_encoding.md R81). -/
def rsv0Field (w : Word) : BitVec 4 := w.extractLsb' 4 4

/-- NDR, bits 15:8 of format I (30_encoding.md R82). -/
def ndrField (w : Word) : BitVec 8 := w.extractLsb' 8 8

/-- LEN, bits 31:8 of format A (30_encoding.md R83). -/
def lenField (w : Word) : BitVec 24 := w.extractLsb' 8 24

/-- REG, bits 12:8 of format R (30_encoding.md R84). -/
def regField (w : Word) : BitVec 5 := w.extractLsb' 8 5

/-- The opcode is one of this build's (30_encoding.md R86): 0x1, 0x2, 0x3, and 0x4 with TEST_ACCESS. -/
def opcodePresent (testAccess : Bool) (w : Word) : Bool :=
  opField w == 1 || opField w == 2 || opField w == 3 || (opField w == 4 && testAccess)

/-- A reserved field of the word's format is not zero (30_encoding.md R87, second test). -/
def reservedFieldSet (w : Word) : Bool :=
  rsv0Field w != 0
    || (opField w == 1 && w.extractLsb' 16 16 != 0)
    || (opField w == 3 && w.extractLsb' 13 19 != 0)
    || (opField w == 4 && w.extractLsb' 8 24 != 0)

/-- Decoding a command word, in the order of 30_encoding.md R87. -/
def decode (testAccess : Bool) (w : Word) : Except DecodeError Instr :=
  if !opcodePresent testAccess w then .error .illegalOpcode
  else if reservedFieldSet w then .error .reservedField
  else if opField w == 1 then .ok (.init (ndrField w))
  else if opField w == 2 then .ok (.apply (lenField w))
  else if opField w == 3 then .ok (.rdreg (regField w))
  else .ok .wrctr

/-- The command word of a command, its fields from bit 31 down (30_encoding.md R82 to R85). -/
def encode : Instr → Word
  | .init ndr => 0#16 ++ ndr ++ 0#4 ++ 0x1#4
  | .apply len => len ++ 0#4 ++ 0x2#4
  | .rdreg reg => 0#19 ++ reg ++ 0#4 ++ 0x3#4
  | .wrctr => 0#28 ++ 0x4#4

/-- What the decoder reads from a word of the opcode table, whose rows are those of a build with
TEST_ACCESS (log 9). Bits from `nbits` up are zero. -/
def decodeTableWord (nbits w : Nat) : Option Instr :=
  match decode true (BitVec.ofNat 32 (w % 2 ^ nbits)) with
  | .ok i => some i
  | .error _ => none

end Sys2Proof
end

