-- ==== Sys2Proof/Machine/Flags.lean ====
section
/-! DEFINITION. The status and configuration registers, which are the only flags of the engine (10_state.md
R30, R33, R35), and the cause codes (60_exceptions.md R221). -/

namespace Sys2Proof.Machine

/-- The error causes (60_exceptions.md R221). -/
inductive Cause where
  | illegalOpcode
  | reservedField
  | illegalRounds
  | illegalReg
  | notInitialized
  deriving DecidableEq, Repr

/-- The code STATUS.CAUSE takes (60_exceptions.md R221). -/
def Cause.code : Cause → BitVec 4
  | .illegalOpcode => 1
  | .reservedField => 2
  | .illegalRounds => 3
  | .illegalReg => 4
  | .notInitialized => 5

/-- The cause of a word that is no command (30_encoding.md R89). -/
def Cause.ofDecodeError : DecodeError → Cause
  | .illegalOpcode => .illegalOpcode
  | .reservedField => .reservedField

/-- STATUS as RDREG reads it: CAUSE in 7:4, HALT in bit 1, INITD in bit 0, the rest 0 (10_state.md R30). -/
def State.statusWord (s : State) : Word :=
  0#24 ++ s.cause ++ 0#2 ++ BitVec.ofBool s.halt ++ BitVec.ofBool s.initd

/-- CONFIG: TEST_ACCESS in bit 4, B in 3:0, the rest 0 (10_state.md R33). -/
def Config.word (c : Config) : Word :=
  0#27 ++ BitVec.ofBool c.testAccess ++ BitVec.ofNat 4 c.batch.blocks

end Sys2Proof.Machine
end

