-- ==== Sys2Proof/Machine/Ops.lean ====
section
/-! DEFINITION. The operations the commands share: the keystream buffer, the State words and their counter,
the two byte streams, the command port, and taking an error (60_exceptions.md R226). There is no return
from an error (R228): only reset leaves it (Machine/Reset.lean). -/

namespace Sys2Proof.Machine

/-! ### The keystream buffer -/

/-- The byte an offset holds, if it holds one. -/
def Memory.read : Memory → Nat → Option Byte
  | [], _ => none
  | (k, b) :: m, a => if a = k then some b else Memory.read m a

/-- Write one byte, keeping the offsets rising. -/
def Memory.write : Memory → Nat → Byte → Memory
  | [], a, v => [(a, v)]
  | (k, b) :: m, a, v =>
    if a < k then (a, v) :: (k, b) :: m
    else if a = k then (a, v) :: m
    else (k, b) :: Memory.write m a v

/-- `MemWrite`: write bytes from offset `a` up (00_scope.md R15). -/
def Memory.writeBytes (m : Memory) (a : Nat) : List Byte → Memory
  | [] => m
  | v :: vs => Memory.writeBytes (Memory.write m a v) (a + 1) vs

/-- `MemRead`: read `n` bytes from offset `a` up; `none` where one of them holds no value (00_scope.md
R15). -/
def Memory.readBytes (m : Memory) (a : Nat) : Nat → Option (List Byte)
  | 0 => some []
  | n + 1 =>
    match Memory.read m a, Memory.readBytes m (a + 1) n with
    | some b, some bs => some (b :: bs)
    | _, _ => none

/-- The listed offsets are strictly rising and at least `lo`. -/
def Memory.risingFrom (lo : Nat) : Memory → Bool
  | [] => true
  | (k, _) :: m => decide (lo ≤ k) && Memory.risingFrom (k + 1) m

/-- The canonical form of a buffer of `cap` bytes: offsets strictly rising and below `cap` (10_state.md
R25). An unlisted offset has no value, so no entry can equal what one reads as. -/
def Memory.wf (cap : Nat) (m : Memory) : Bool :=
  Memory.risingFrom 0 m && m.all fun cell => decide (cell.1 < cap)

/-! ### The State words and the block counter -/

/-- CTR, the 64-bit value `S[13], S[12]` (10_state.md R22). -/
def Words.ctr (ws : Words) : BitVec 64 :=
  ws[13] ++ ws[12]

/-- `CTR <- v` (00_scope.md R15). -/
def Words.setCtr (ws : Words) (v : BitVec 64) : Words :=
  (ws.set 12 (v.extractLsb' 0 32)).set 13 (v.extractLsb' 32 32)

/-! ### The byte streams -/

/-- `DinRead(n)`: take the next n bytes of data-in, if the host has sent them (00_scope.md R15). -/
def State.dinRead (n : Nat) (s : State) : Option (List Byte × State) :=
  if n ≤ s.dataIn.length then
    some (s.dataIn.take n, { s with dataIn := s.dataIn.drop n })
  else none

/-- A command that takes `n` data-in bytes: with fewer offered the engine waits, and the command takes no
step (70_reset_and_hazards.md R264, log 4). -/
def withDataIn (n : Nat) (s : State) (k : List Byte → State → Result) : Result :=
  match s.dinRead n with
  | some (bytes, t) => k bytes t
  | none => .fault .stuckDataIn

/-- The host accepts `n` more data-out bytes (70_reset_and_hazards.md R264, log 5). -/
def State.accepts (n : Nat) (s : State) : Bool :=
  match s.outRoom with
  | none => true
  | some room => decide (n ≤ room)

/-- The bytes sent and accepted. -/
def State.sent (bytes : List Byte) (s : State) : State :=
  { s with
    dataOut := s.dataOut ++ bytes
    outRoom := s.outRoom.map fun room => room - bytes.length }

/-- `DoutWrite(bytes)`: the last act of a command that sends (00_scope.md R15). Where the host accepts
fewer, the command takes no step (70_reset_and_hazards.md R264, log 5). -/
def doutWrite (bytes : List Byte) (s : State) : Result :=
  if s.accepts bytes.length then .next (s.sent bytes) else .fault .stuckDataOut

/-! ### The command port -/

/-- Accept the next command word (70_reset_and_hazards.md R263). -/
def State.takeCommand (s : State) : Option (Word × State) :=
  match s.cmdIn with
  | [] => none
  | w :: rest => some (w, { s with cmdIn := rest })

/-! ### Errors -/

/-- Error entry: HALT, CAUSE and ERRCMD, and nothing else (60_exceptions.md R224, R226). The caller has
taken the command's data-in bytes (R225). -/
def State.raiseError (c : Cause) (w : Word) (s : State) : State :=
  { s with halt := true, cause := c.code, errcmd := w }

/-- A word that may not execute raises its error, or is dropped while halted (60_exceptions.md R227). -/
def State.refuseCommand (c : Cause) (w : Word) (s : State) : State :=
  if s.halt then s else s.raiseError c w

end Sys2Proof.Machine
end

