-- ==== Sys2Proof/Machine/Operands.lean ====
section
/-! DEFINITION. What the commands' operands stand for: byte order (20_memory.md R62 to R65), the register
index map (10_state.md R32), the key, nonce and counter bytes (20_memory.md R63, R64), and how many bytes a
command takes (30_encoding.md R88). -/

namespace Sys2Proof.Machine

/-- `le32(b0, b1, b2, b3)` (00_scope.md R15). -/
def le32 (b0 b1 b2 b3 : Byte) : Word :=
  b3 ++ b2 ++ b1 ++ b0

/-- `bytes_le32(w)` (00_scope.md R15). -/
def bytesLe32 (w : Word) : List Byte :=
  [w.extractLsb' 0 8, w.extractLsb' 8 8, w.extractLsb' 16 8, w.extractLsb' 24 8]

/-- Word `j` of a byte string, little-endian: bytes `4j` to `4j + 3` (20_memory.md R63). Every caller has
the bytes; the 0 past the end is never read. -/
def le32At (bytes : List Byte) (j : Nat) : Word :=
  le32 (bytes.getD (4 * j) 0) (bytes.getD (4 * j + 1) 0) (bytes.getD (4 * j + 2) 0)
    (bytes.getD (4 * j + 3) 0)

/-- The State of a new CipherStream: constants, key, counter 0, nonce (43_initializer.md R192). -/
def initialWords (key nonce : List Byte) : Words :=
  #v[0x61707865, 0x3320646e, 0x79622d32, 0x6b206574,
     le32At key 0, le32At key 1, le32At key 2, le32At key 3,
     le32At key 4, le32At key 5, le32At key 6, le32At key 7,
     0, 0, le32At nonce 0, le32At nonce 1]

/-- What an RDREG index names (10_state.md R32). -/
inductive Reg where
  | word (k : Fin 16)
  | offset
  | ndr
  | status
  | config
  | errcmd
  | reserved
  deriving DecidableEq, Repr

/-- The register index map (10_state.md R32). -/
def Reg.ofIndex (reg : BitVec 5) : Reg :=
  if h : reg.toNat < 16 then .word ⟨reg.toNat, h⟩
  else match reg.toNat with
    | 0x10 => .offset
    | 0x11 => .ndr
    | 0x12 => .status
    | 0x13 => .config
    | 0x14 => .errcmd
    | _ => .reserved

/-- The value a register reads as, or the cause RDREG raises, in the order of 44_register_access.md
R200. OFFSET is read as a 9-bit register, zero-extended (10_state.md R27, R32). -/
def State.regValue (s : State) : Reg → Except Cause Word
  | .word k =>
    if s.cfg.testAccess then
      match s.words with
      | some ws => .ok ws[k]
      | none => .error .notInitialized
    else .error .illegalReg
  | .offset => .ok ((BitVec.ofNat 9 s.offset).setWidth 32)
  | .ndr => .ok (s.ndr.setWidth 32)
  | .status => .ok s.statusWord
  | .config => .ok (Config.word s.cfg)
  | .errcmd => .ok s.errcmd
  | .reserved => .error .illegalReg

/-- DINLEN of a command: "fixed by the command word alone" (30_encoding.md R88). -/
def dinLen : Instr → Nat
  | .init _ => 40
  | .apply len => len.toNat
  | .rdreg _ => 0
  | .wrctr => 8

/-- DINLEN of a command word; a word that is no command has none (30_encoding.md R88). -/
def dinLenOfWord (testAccess : Bool) (w : Word) : Nat :=
  match decode testAccess w with
  | .ok i => dinLen i
  | .error _ => 0

end Sys2Proof.Machine
end

