-- ==== Sys2Proof/Machine/Initializer.lean ====
section
/-! DEFINITION. The Initializer and its command INIT (43_initializer.md R190 to R194). -/

namespace Sys2Proof.Machine

/-- A new CipherStream: S, NDR and OFFSET = CAP; S holds values, so INITD is 1; KSB is not written
(43_initializer.md R192). -/
def State.loadCipherStream (ws : Words) (ndr : BitVec 8) (s : State) : State :=
  { s with words := some ws, ndr := ndr, offset := s.cfg.cap }

/-- INIT (43_initializer.md R192): 32 key bytes and 8 nonce bytes; dropped while halted, ILLEGAL_ROUNDS
for NDR = 0 (R191). -/
def execInit (ndr : BitVec 8) (s : State) : Result :=
  withDataIn 40 s fun bytes t =>
    if t.halt then .next t
    else if ndr = 0 then .next (t.raiseError .illegalRounds (encode (.init ndr)))
    else .next (t.loadCipherStream (initialWords (bytes.take 32) (bytes.drop 32)) ndr)

end Sys2Proof.Machine
end

