-- ==== Sys2Proof/Machine/RegisterAccess.lean ====
section
/-! DEFINITION. Register access and the test port: RDREG and WRCTR (44_register_access.md R200 to R204). -/

namespace Sys2Proof.Machine

/-- RDREG (44_register_access.md R200): four bytes of a register, also while halted; a RDREG whose checks
fail raises its error, or is dropped while halted (60_exceptions.md R227). -/
def execRdreg (reg : BitVec 5) (s : State) : Result :=
  match s.regValue (Reg.ofIndex reg) with
  | .ok v => doutWrite (bytesLe32 v) s
  | .error c => .next (s.refuseCommand c (encode (.rdreg reg)))

/-- The counter written and the buffered keystream discarded (44_register_access.md R203). -/
def State.writeCounter (ws : Words) (v : BitVec 64) (s : State) : State :=
  { s with words := some (Words.setCtr ws v), offset := s.cfg.cap }

/-- WRCTR (44_register_access.md R203): eight bytes, low word first; dropped while halted,
NOT_INITIALIZED before INIT. Its absence without TEST_ACCESS is the decoder's (30_encoding.md R87, log
15). -/
def execWrctr (s : State) : Result :=
  withDataIn 8 s fun bytes t =>
    if t.halt then .next t
    else match t.words with
      | none => .next (t.raiseError .notInitialized (encode .wrctr))
      | some ws => .next (t.writeCounter ws (le32At bytes 1 ++ le32At bytes 0))

end Sys2Proof.Machine
end

