-- ==== Sys2Proof/Machine/Permutation.lean ====
section
/-! DEFINITION. The Permutation Engine (40_permutation.md R110 to R120). -/

namespace Sys2Proof.Machine

/-- A vector value of four 32-bit lanes, lane 0 first (00_scope.md R16). -/
structure V4 where
  l0 : Word
  l1 : Word
  l2 : Word
  l3 : Word
  deriving DecidableEq, Repr

/-- One block's working state as four row vectors: lane i of row r holds word 4r + i (40_permutation.md
R110). -/
structure Rows where
  a : V4
  b : V4
  c : V4
  d : V4
  deriving DecidableEq, Repr

/-- The 16 words as rows (40_permutation.md R110). -/
def Rows.ofWords (x : Words) : Rows where
  a := ⟨x[0], x[1], x[2], x[3]⟩
  b := ⟨x[4], x[5], x[6], x[7]⟩
  c := ⟨x[8], x[9], x[10], x[11]⟩
  d := ⟨x[12], x[13], x[14], x[15]⟩

/-- The rows as 16 words (40_permutation.md R110). -/
def Rows.toWords (r : Rows) : Words :=
  #v[r.a.l0, r.a.l1, r.a.l2, r.a.l3, r.b.l0, r.b.l1, r.b.l2, r.b.l3,
     r.c.l0, r.c.l1, r.c.l2, r.c.l3, r.d.l0, r.d.l1, r.d.l2, r.d.l3]

/-- `rotl32(x, n)` for 0 < n < 32 (00_scope.md R14). -/
def rotl32 (x : Word) (n : Nat) : Word :=
  (x <<< n) ||| (x >>> (32 - n))

/-- The four words of one quarter round (40_permutation.md R111). -/
structure Quad where
  a : Word
  b : Word
  c : Word
  d : Word
  deriving DecidableEq, Repr

/-- QR, the quarter round (40_permutation.md R111). -/
def quarterRound (q : Quad) : Quad :=
  let a := q.a + q.b
  let d := rotl32 (q.d ^^^ a) 16
  let c := q.c + d
  let b := rotl32 (q.b ^^^ c) 12
  let a := a + b
  let d := rotl32 (d ^^^ a) 8
  let c := c + d
  let b := rotl32 (b ^^^ c) 7
  ⟨a, b, c, d⟩

/-- VQR, the lane-wise quarter round (40_permutation.md R112). -/
def vectorQuarterRound (r : Rows) : Rows :=
  let q0 := quarterRound ⟨r.a.l0, r.b.l0, r.c.l0, r.d.l0⟩
  let q1 := quarterRound ⟨r.a.l1, r.b.l1, r.c.l1, r.d.l1⟩
  let q2 := quarterRound ⟨r.a.l2, r.b.l2, r.c.l2, r.d.l2⟩
  let q3 := quarterRound ⟨r.a.l3, r.b.l3, r.c.l3, r.d.l3⟩
  { a := ⟨q0.a, q1.a, q2.a, q3.a⟩
    b := ⟨q0.b, q1.b, q2.b, q3.b⟩
    c := ⟨q0.c, q1.c, q2.c, q3.c⟩
    d := ⟨q0.d, q1.d, q2.d, q3.d⟩ }

/-- Lane `i mod 4` of a vector. -/
def V4.lane (v : V4) (i : Nat) : Word :=
  match i % 4 with
  | 0 => v.l0
  | 1 => v.l1
  | 2 => v.l2
  | _ => v.l3

/-- LROT: lane i receives lane `(i + k) mod 4` (40_permutation.md R113). -/
def lrot (v : V4) (k : Nat) : V4 :=
  ⟨v.lane (0 + k), v.lane (1 + k), v.lane (2 + k), v.lane (3 + k)⟩

/-- DIAGONALIZE (40_permutation.md R114). -/
def diagonalize (r : Rows) : Rows :=
  { r with b := lrot r.b 1, c := lrot r.c 2, d := lrot r.d 3 }

/-- UNDIAGONALIZE (40_permutation.md R115). -/
def undiagonalize (r : Rows) : Rows :=
  { r with b := lrot r.b 3, c := lrot r.c 2, d := lrot r.d 1 }

/-- DOUBLEROUND: a column round and a diagonal round (40_permutation.md R116). -/
def doubleRound (r : Rows) : Rows :=
  undiagonalize (vectorQuarterRound (diagonalize (vectorQuarterRound r)))

/-- PERMUTE: `n` double rounds (40_permutation.md R118). -/
def permute : Nat → Rows → Rows
  | 0, r => r
  | n + 1, r => permute n (doubleRound r)

/-- QR on the words of four positions of a block (40_permutation.md R117). -/
def quarterRoundAt (x : Words) (i j k l : Fin 16) : Words :=
  let q := quarterRound ⟨x[i], x[j], x[k], x[l]⟩
  (((x.set i q.a).set j q.b).set k q.c).set l q.d

/-- The scalar form of DOUBLEROUND (40_permutation.md R117), which the claims compare with `doubleRound`. -/
def doubleRoundScalar (x : Words) : Words :=
  let x := quarterRoundAt x 0 4 8 12
  let x := quarterRoundAt x 1 5 9 13
  let x := quarterRoundAt x 2 6 10 14
  let x := quarterRoundAt x 3 7 11 15
  let x := quarterRoundAt x 0 5 10 15
  let x := quarterRoundAt x 1 6 11 12
  let x := quarterRoundAt x 2 7 8 13
  quarterRoundAt x 3 4 9 14

end Sys2Proof.Machine
end

