-- ==== Sys2Proof/Machine/Batch.lean ====
section
/-! DEFINITION. The Batch Block Generator (41_batch_generator.md R140 to R150). -/

namespace Sys2Proof.Machine

/-- The working copy of block `j`: the State with its counter `(CTR + j) mod 2^64` (41_batch_generator.md
R140, R141). -/
def workingCopy (ws : Words) (j : Nat) : Words :=
  Words.setCtr ws (Words.ctr ws + BitVec.ofNat 64 j)

/-- Lane-wise addition modulo 2^32 (00_scope.md R16). -/
def V4.add (u v : V4) : V4 :=
  ⟨u.l0 + v.l0, u.l1 + v.l1, u.l2 + v.l2, u.l3 + v.l3⟩

/-- Finalization: word-wise addition of the block's own working copy (41_batch_generator.md R143). -/
def finalize (x w : Rows) : Rows where
  a := x.a.add w.a
  b := x.b.add w.b
  c := x.c.add w.c
  d := x.d.add w.d

/-- Serialization: the 16 words little-endian, word 0 first (41_batch_generator.md R144, 20_memory.md
R62). -/
def serialize (y : Words) : List Byte :=
  y.toList.flatMap bytesLe32

/-- BLOCK: block `j` from the State's counter, 64 bytes (41_batch_generator.md R142). -/
def block (ws : Words) (ndr : BitVec 8) (j : Nat) : List Byte :=
  let w := Rows.ofWords (workingCopy ws j)
  serialize (finalize (permute ndr.toNat w) w).toWords

/-- The counter advance by `n` blocks, with the carry from the low into the high word
(41_batch_generator.md R147). -/
def advanceCounter (ws : Words) (n : Nat) : Words :=
  let sum : BitVec 33 := ws[12].setWidth 33 + BitVec.ofNat 33 n
  (ws.set 12 (sum.extractLsb' 0 32)).set 13 (ws[13] + (sum.extractLsb' 32 1).setWidth 32)

/-- Blocks 0 to `n - 1` written to the buffer, block j at offset `64 * j` (20_memory.md R61). -/
def writeBlocks (ws : Words) (ndr : BitVec 8) (m : Memory) : Nat → Memory
  | 0 => m
  | n + 1 => (writeBlocks ws ndr m n).writeBytes (64 * n) (block ws ndr n)

/-- What APPLY reads and writes besides its bytes: S, KSB and OFFSET (42_streaming_xor.md R171). -/
structure CipherStream where
  words  : Words
  ksb    : Memory
  offset : Nat
  deriving DecidableEq, Repr

/-- GENERATE: refill the buffer with one batch and advance the counter by B (41_batch_generator.md R146).
OFFSET is not its to change. -/
def generate (c : Config) (ndr : BitVec 8) (st : CipherStream) : CipherStream :=
  { st with
    ksb := writeBlocks st.words ndr st.ksb c.batch.blocks
    words := advanceCounter st.words c.batch.blocks }

end Sys2Proof.Machine
end

