-- ==== Sys2Proof/Machine/Streaming.lean ====
section
/-! DEFINITION. The Streaming XOR Engine and its command APPLY (42_streaming_xor.md R170 to R179). -/

namespace Sys2Proof.Machine

/-- Byte-wise XOR (42_streaming_xor.md R171, R175). -/
def xorBytes (inp ks : List Byte) : List Byte :=
  List.zipWith (fun x y => x ^^^ y) inp ks

/-- The refill test at the end of an iteration: at OFFSET = CAP, GENERATE, and OFFSET becomes 0
(42_streaming_xor.md R171, R174). -/
def refillIfEmpty (c : Config) (ndr : BitVec 8) (st : CipherStream) : CipherStream :=
  if st.offset = c.cap then { generate c ndr st with offset := 0 } else st

/-- The loop of APPLY over the input bytes left, `out` the bytes made so far (42_streaming_xor.md R171).
`fuel` bounds the iterations: "at most LEN + 1" of them (R171, log 11). -/
def applyLoop (c : Config) (ndr : BitVec 8) :
    Nat → List Byte → List Byte → CipherStream → Except Fault (List Byte × CipherStream)
  | _, [], out, st => .ok (out, st)
  | 0, _ :: _, _, _ => .error .applyStuck
  | fuel + 1, x :: xs, out, st =>
    let left := x :: xs
    let step := min (c.cap - st.offset) left.length
    match st.ksb.readBytes st.offset step with
    | none => .error .keystreamUnset
    | some ks =>
      applyLoop c ndr fuel (left.drop step) (out ++ xorBytes (left.take step) ks)
        (refillIfEmpty c ndr { st with offset := st.offset + step })

/-- The CipherStream after APPLY, put back into the state. -/
def State.setCipherStream (st : CipherStream) (s : State) : State :=
  { s with words := some st.words, ksb := st.ksb, offset := st.offset }

/-- APPLY (42_streaming_xor.md R171): dropped while halted, NOT_INITIALIZED before INIT, else LEN bytes
XORed with the keystream and sent. -/
def execApply (len : BitVec 24) (s : State) : Result :=
  withDataIn len.toNat s fun inp t =>
    if t.halt then .next t
    else match t.words with
      | none => .next (t.raiseError .notInitialized (encode (.apply len)))
      | some ws =>
        match applyLoop t.cfg t.ndr (len.toNat + 1) inp [] ⟨ws, t.ksb, t.offset⟩ with
        | .error f => .fault f
        | .ok (out, st) => doutWrite out (t.setCipherStream st)

end Sys2Proof.Machine
end

