-- ==== Sys2Proof/Machine/Dispatch.lean ====
section
/-! DEFINITION. The meaning of a decoded command: one arm per constructor of Instr. -/

namespace Sys2Proof.Machine

def exec (i : Instr) (s : State) : Host.Outcome State Fault Refusal :=
  match i with
  | .init ndr => Sys2Proof.Machine.execInit ndr s
  | .apply len => Sys2Proof.Machine.execApply len s
  | .rdreg reg => Sys2Proof.Machine.execRdreg reg s
  | .wrctr => Sys2Proof.Machine.execWrctr s

end Sys2Proof.Machine
end

