-- ==== Sys2Proof/Machine/Command.lean ====
section
/-! DEFINITION. A command word that has been accepted: decoded and executed, or refused (30_encoding.md R87,
60_exceptions.md R221, R227). -/

namespace Sys2Proof.Machine

/-- Run the accepted word `w`: a word that is no command raises its error, or is dropped while halted; it
takes no data-in bytes (60_exceptions.md R225, R227). -/
def runWord (w : Word) (s : State) : Result :=
  match decode s.cfg.testAccess w with
  | .ok i => exec i s
  | .error e => .next (s.refuseCommand (Cause.ofDecodeError e) w)

end Sys2Proof.Machine
end

