-- ==== Sys2Proof/Machine/Reset.lean ====
section
/-! DEFINITION. Reset (70_reset_and_hazards.md R260, R261): the only way out of an error (60_exceptions.md
R228). -/

namespace Sys2Proof.Machine

/-- A command that the engine waits in is in progress: it has its word and takes no step
(70_reset_and_hazards.md R264). -/
def Fault.waiting : Fault → Bool
  | .stuckDataIn => true
  | .stuckDataOut => true
  | .keystreamUnset => false
  | .applyStuck => true

/-- The command at the head of the port, if the engine waits in it. -/
def State.commandInProgress (s : State) : Option Word :=
  match s.takeCommand with
  | none => none
  | some (w, t) =>
    match runWord w t with
    | .fault f => if f.waiting then some w else none
    | .next _ => none
    | .refused _ => none

/-- Reset "ends any command in progress without completing it" (70_reset_and_hazards.md R260): its word
and the data-in bytes sent for it are gone (DEDUCED, log 7). -/
def State.abandonCommand (s : State) : State :=
  match s.commandInProgress with
  | none => s
  | some w =>
    { s with
      cmdIn := s.cmdIn.drop 1
      dataIn := s.dataIn.drop (dinLenOfWord s.cfg.testAccess w) }

/-- Reset taken: every piece of state at its reset value (10_state.md R37); CONFIG is hardwired
(70_reset_and_hazards.md R260). What the host offers or has received is the host's (log 7). -/
def State.takeReset (s : State) : State :=
  { State.resetOf s.cfg with
    cmdIn := s.abandonCommand.cmdIn
    dataIn := s.abandonCommand.dataIn
    dataOut := s.dataOut
    outRoom := s.outRoom }

end Sys2Proof.Machine
end

