-- ==== Sys2Proof/Machine/Step.lean ====
section
/-! DEFINITION. One step of the engine, and the placing of one command for the host's questions. -/

namespace Sys2Proof.Machine

/-- One step: take reset if it is asserted (70_reset_and_hazards.md R260); else accept the next command
word and run it (20_memory.md R67, R70); with none offered the engine waits and holds its state
(70_reset_and_hazards.md R265, 60_exceptions.md R235, log 6). -/
def step (s : State) : Host.Outcome State Fault Refusal :=
  match s.resetIn with
  | true => .next s.takeReset
  | false =>
    match s.takeCommand with
    | none => .next s
    | some (w, t) => runWord w t

/-- The state with one more command ahead of all others: its word next on the command port, its data-in
bytes, all zero, next on the data-in stream, and reset not asserted (log 8). -/
def State.withFetchWord (s : State) (nbits w : Nat) : State :=
  let word : Word := BitVec.ofNat 32 (w % 2 ^ nbits)
  { s with
    resetIn := false
    cmdIn := word :: s.cmdIn
    dataIn := List.replicate (dinLenOfWord s.cfg.testAccess word) 0 ++ s.dataIn }

end Sys2Proof.Machine
end

