-- ==== Sys2Proof/WellFormed.lean ====
section
/-! DEFINITION. Which commands are well formed in a build: the command is present in it (30_encoding.md
R86), its round count is legal (R82) and its register index names a register (10_state.md R32). The
engine decodes every `encodable` command; the other two checks are made after decoding (R87). -/

namespace Sys2Proof

/-- The command has an opcode in this build: WRCTR has one only with TEST_ACCESS (30_encoding.md R86). -/
def Instr.encodable (c : Config) : Instr → Bool
  | .init _ => true
  | .apply _ => true
  | .rdreg _ => true
  | .wrctr => c.testAccess

/-- "legal 1..255" (30_encoding.md R82). -/
def Instr.roundsLegal : Instr → Bool
  | .init ndr => decide (1 ≤ ndr.toNat)
  | .apply _ => true
  | .rdreg _ => true
  | .wrctr => true

/-- The index is that of a register present in this build (10_state.md R32): 0x10 to 0x14 always, 0x00
to 0x0F with TEST_ACCESS. -/
def Instr.registerPresent (c : Config) : Instr → Bool
  | .init _ => true
  | .apply _ => true
  | .rdreg reg => decide (reg.toNat ≤ 0x14) && (c.testAccess || decide (0x10 ≤ reg.toNat))
  | .wrctr => true

/-- A well-formed command of the build `c`. -/
def Instr.wellFormed (c : Config) (i : Instr) : Bool :=
  i.encodable c && i.roundsLegal && i.registerPresent c

end Sys2Proof
end

