-- ==== Sys2Proof/Safety.lean ====
section
/-! DEFINITION. The terms the claims are stated in: the keystream as a sequence (41_batch_generator.md
R150), a stream position (42_streaming_xor.md R172), the invariant of the engine, runs of commands, and two engines
that differ in their batch width (R178). -/

namespace Sys2Proof.Machine

/-- `K(n)`: byte `n mod 64` of block `n div 64` of the State `ws0` (41_batch_generator.md R150). A block
has 64 bytes, so the 0 is never read. -/
def keystream (ws0 : Words) (ndr : BitVec 8) (n : Nat) : Byte :=
  (block ws0 ndr (n / 64)).getD (n % 64) 0

/-- `K(n)` to `K(n + len - 1)`. -/
def keystreamFrom (ws0 : Words) (ndr : BitVec 8) (n len : Nat) : List Byte :=
  (List.range len).map fun k => keystream ws0 ndr (n + k)

/-- `n` bytes have been consumed since the INIT or WRCTR that left the State `ws0` (42_streaming_xor.md
R172): with none consumed the buffer is empty; after that 1 + n div CAP batches have been made, the buffer
holds the batch of byte n, and OFFSET is n mod CAP. -/
structure AtPosition (s : State) (ws0 : Words) (n : Nat) : Prop where
  fresh : n = 0 → s.words = some ws0 ∧ s.offset = s.cfg.cap
  streaming : 1 ≤ n →
    s.words = some (Words.setCtr ws0
      (Words.ctr ws0 + BitVec.ofNat 64 (s.cfg.batch.blocks * (1 + n / s.cfg.cap)))) ∧
    s.offset = n % s.cfg.cap ∧
    ∀ j, j < s.cfg.cap →
      Memory.read s.ksb j = some (keystream ws0 s.ndr (n / s.cfg.cap * s.cfg.cap + j))

/-- The four constant words (43_initializer.md R192). -/
abbrev hasConstants (ws : Words) : Prop :=
  ws[0] = 0x61707865 ∧ ws[1] = 0x3320646e ∧ ws[2] = 0x79622d32 ∧ ws[3] = 0x6b206574

/-- What every step keeps. -/
structure State.Inv (s : State) : Prop where
  /-- The buffer's canonical form, within its CAP bytes (10_state.md R25). -/
  memory : Memory.wf s.cfg.cap s.ksb = true
  /-- `0 <= OFFSET <= CAP` (10_state.md R28). -/
  offset : s.offset ≤ s.cfg.cap
  /-- Where bytes of the buffer are still to be consumed, it is the batch the counter has just passed
  (20_memory.md R61, 41_batch_generator.md R146). -/
  buffer : s.offset < s.cfg.cap → ∃ ws, s.words = some ws ∧
    ∀ j, j < s.cfg.cap → Memory.read s.ksb j =
      some (keystream
        (Words.setCtr ws (Words.ctr ws - BitVec.ofNat 64 s.cfg.batch.blocks)) s.ndr j)
  /-- "words 0–3 never change after initialization" (10_state.md R23). -/
  constants : ∀ ws, s.words = some ws → hasConstants ws
  /-- NDR is 1 to 255 after INIT and 10 before (10_state.md R29, R37). -/
  rounds : if s.initd then s.ndr ≠ 0 else s.ndr = 10
  /-- CAUSE and ERRCMD are 0 until an error, and CAUSE is 1 to 5 after one (10_state.md R30, R31,
  60_exceptions.md R221). -/
  status : if s.halt then 1 ≤ s.cause.toNat ∧ s.cause.toNat ≤ 5 else s.cause = 0 ∧ s.errcmd = 0

/-- Commands executed one after another (20_memory.md R70), stopping at the first stop. -/
def runAll : List Instr → State → Result
  | [], s => .next s
  | i :: is, s =>
    match exec i s with
    | .next t => runAll is t
    | .fault f => .fault f
    | .refused r => .refused r

/-- A command whose data-out the batch width may show: RDREG of S12, S13, OFFSET or CONFIG
(42_streaming_xor.md R178, 10_state.md R33). -/
def readsBatchWidth : Instr → Bool
  | .init _ => false
  | .apply _ => false
  | .rdreg reg => reg == 0x0C || reg == 0x0D || reg == 0x10 || reg == 0x13
  | .wrctr => false

/-- A B = 1 and a B = 4 engine that no command but one of `readsBatchWidth` tells apart (42_streaming_xor.md
R178): the same ports, NDR, HALT, CAUSE, ERRCMD and TEST_ACCESS, and both uninitialized or both at one
position of one stream. S[12], S[13], OFFSET and KSB may differ. -/
structure AlikeButForWidth (s1 s4 : State) : Prop where
  widthOne   : s1.cfg.batch = .one
  widthFour  : s4.cfg.batch = .four
  testAccess : s4.cfg.testAccess = s1.cfg.testAccess
  ndr        : s4.ndr = s1.ndr
  halt       : s4.halt = s1.halt
  cause      : s4.cause = s1.cause
  errcmd     : s4.errcmd = s1.errcmd
  resetIn    : s4.resetIn = s1.resetIn
  cmdIn      : s4.cmdIn = s1.cmdIn
  dataIn     : s4.dataIn = s1.dataIn
  dataOut    : s4.dataOut = s1.dataOut
  outRoom    : s4.outRoom = s1.outRoom
  stream     : (s1.words = none ∧ s4.words = none) ∨
    ∃ ws0 n, AtPosition s1 ws0 n ∧ AtPosition s4 ws0 n

/-- Both answer next states that are alike, or both stop by the same name. -/
def AlikeResults (r1 r4 : Result) : Prop :=
  match r1, r4 with
  | .next t1, .next t4 => AlikeButForWidth t1 t4
  | .fault f1, .fault f4 => f1 = f4
  | _, _ => False

end Sys2Proof.Machine
end

