-- ==== Sys2Proof/Certificates/Slice0/Obligations.lean ====
section
/-! DEFINITION. The statements for the provers, from the numbered rules of spec/. A quantifier over states is
over every state: both batch widths, with and without TEST_ACCESS, halted or not, unless a premise says
otherwise. `s.accepts n` says that the host accepts n data-out bytes (70_reset_and_hazards.md R264). -/

open Sys2Proof Sys2Proof.Machine

/-! ### Encoding -/

/-- The command words the encoding rules give as examples, and the first words they refuse
(30_encoding.md R82 to R86). -/
def Obligations.ExampleWordsDecode : Prop :=
  decode true 0x00000A01 = .ok (.init 10) ∧
  decode true 0x00004002 = .ok (.apply 64) ∧
  decode true 0x00001203 = .ok (.rdreg 0x12) ∧
  decode true 0x00000004 = .ok .wrctr ∧
  decode false 0x00000004 = .error .illegalOpcode ∧
  decode true 0x00000000 = .error .illegalOpcode ∧
  decode true 0x00010A01 = .error .reservedField

/-- Every command that has an opcode in the build is read back from its own word, with every operand; WRCTR
without TEST_ACCESS is an illegal opcode (30_encoding.md R82 to R87). -/
def Obligations.DecodeReadsBackEncode : Prop :=
  ∀ (c : Config) (i : Instr),
    decode c.testAccess (encode i) =
      if i.encodable c then .ok i else .error .illegalOpcode

/-- A word that decodes is the word of its command: no two words are one command, so the word ERRCMD
records is the word the host sent (30_encoding.md R87, 10_state.md R31). -/
def Obligations.EncodeRestoresTheWord : Prop :=
  ∀ (testAccess : Bool) (w : Word) (i : Instr), decode testAccess w = .ok i → encode i = w

/-- Decoding is the algorithm of 30_encoding.md R87, its fields computed here as quotients and remainders
of the word as a number. -/
def Obligations.DecodeFollowsTheFieldOrder : Prop :=
  ∀ (testAccess : Bool) (w : Word),
    let op := w.toNat % 16
    decode testAccess w =
      if ¬ (op = 1 ∨ op = 2 ∨ op = 3 ∨ op = 4) ∨ (op = 4 ∧ testAccess = false) then
        .error .illegalOpcode
      else if w.toNat / 16 % 16 ≠ 0 ∨ (op = 1 ∧ w.toNat / 65536 ≠ 0)
          ∨ (op = 3 ∧ w.toNat / 8192 ≠ 0) ∨ (op = 4 ∧ w.toNat / 256 ≠ 0) then
        .error .reservedField
      else if op = 1 then .ok (.init (BitVec.ofNat 8 (w.toNat / 256)))
      else if op = 2 then .ok (.apply (BitVec.ofNat 24 (w.toNat / 256)))
      else if op = 3 then .ok (.rdreg (BitVec.ofNat 5 (w.toNat / 256)))
      else .ok .wrctr

/-! ### Stepping and reset -/

/-- A step accepts the next command word and runs the command it decodes to (20_memory.md R67, R70). -/
def Obligations.StepRunsTheDecodedCommand : Prop :=
  ∀ (s : State) (w : Word) (rest : List Word) (i : Instr),
    s.resetIn = false → s.cmdIn = w :: rest → decode s.cfg.testAccess w = .ok i →
    step s = exec i { s with cmdIn := rest }

/-- With no command word offered the engine waits and holds its state (60_exceptions.md R235,
70_reset_and_hazards.md R265; the model's choice of a step for it, log 6). -/
def Obligations.WaitingEngineHoldsItsState : Prop :=
  ∀ s : State, s.resetIn = false → s.cmdIn = [] → step s = .next s

/-- The state after reset of every build (10_state.md R37); that no KSB offset has a value is the model's
reading of "unspecified" (log 3). -/
def Obligations.ResetValues : Prop :=
  ∀ c : Config,
    let s := State.resetOf c
    s.cfg = c ∧ s.words = none ∧ s.initd = false ∧ s.offset = c.cap ∧ s.ndr = 10 ∧
    s.halt = false ∧ s.cause = 0 ∧ s.errcmd = 0 ∧ s.statusWord = 0 ∧
    (∀ a, Memory.read s.ksb a = none) ∧ State.reset = State.resetOf Config.shown

/-- Reset, whatever the state: every piece of state takes its reset value, CONFIG is unaffected, and bytes
already sent stay sent (70_reset_and_hazards.md R260). That no KSB offset has a value is the model's reading
of "KSB unspecified" (log 3); that one step takes the reset and ends it is the model's choice (log 7). -/
def Obligations.ResetInputResetsTheEngine : Prop :=
  ∀ s : State, s.resetIn = true →
    ∃ t, step s = .next t ∧ t.cfg = s.cfg ∧ t.words = none ∧ t.offset = s.cfg.cap ∧ t.ndr = 10 ∧
      t.halt = false ∧ t.cause = 0 ∧ t.errcmd = 0 ∧ t.resetIn = false ∧
      (∀ a, Memory.read t.ksb a = none) ∧ t.dataOut = s.dataOut

/-- What reset leaves on the ports (70_reset_and_hazards.md R260, R264; the model's reading, log 7). A command
the engine waits in ends, its word and its DINLEN bytes gone: one that lacks data-in bytes (log 4), a RDREG
of a readable register with fewer than four bytes accepted, an APPLY with fewer than LEN accepted (log 5).
A word that is not waiting, because it would complete or raise its error, stays offered, and so do
the bytes sent; a port with no word stays as it is. -/
def Obligations.ResetEndsAStarvedCommand : Prop :=
  (∀ (s : State) (w : Word) (rest : List Word) (i : Instr),
    s.resetIn = true → s.cmdIn = w :: rest → decode s.cfg.testAccess w = .ok i →
    s.dataIn.length < dinLen i →
    ∃ t, step s = .next t ∧ t.cmdIn = rest ∧ t.dataIn = []) ∧
  (∀ (s : State) (w : Word) (rest : List Word) (reg : BitVec 5) (v : Word),
    s.resetIn = true → s.cmdIn = w :: rest → decode s.cfg.testAccess w = .ok (.rdreg reg) →
    s.regValue (Reg.ofIndex reg) = .ok v → s.accepts 4 = false →
    ∃ t, step s = .next t ∧ t.cmdIn = rest ∧ t.dataIn = s.dataIn) ∧
  (∀ (s : State) (w : Word) (rest : List Word) (len : BitVec 24),
    s.Inv → s.resetIn = true → s.cmdIn = w :: rest →
    decode s.cfg.testAccess w = .ok (.apply len) → s.halt = false → s.initd = true →
    len.toNat ≤ s.dataIn.length → s.accepts len.toNat = false →
    ∃ t, step s = .next t ∧ t.cmdIn = rest ∧ t.dataIn = s.dataIn.drop len.toNat) ∧
  (∀ (s u : State) (w : Word) (rest : List Word),
    s.resetIn = true → s.cmdIn = w :: rest → runWord w { s with cmdIn := rest } = .next u →
    ∃ t, step s = .next t ∧ t.cmdIn = w :: rest ∧ t.dataIn = s.dataIn) ∧
  (∀ s : State, s.resetIn = true → s.cmdIn = [] →
    ∃ t, step s = .next t ∧ t.cmdIn = [] ∧ t.dataIn = s.dataIn)

/-! ### The commands -/

/-- INIT (43_initializer.md R192): dropped while halted, ILLEGAL_ROUNDS for NDR = 0, and else the new
CipherStream; its 40 bytes are consumed in every case and nothing else changes. -/
def Obligations.InitLoadsACipherStream : Prop :=
  ∀ (s : State) (ndr : BitVec 8) (key nonce rest : List Byte),
    s.dataIn = key ++ nonce ++ rest → key.length = 32 → nonce.length = 8 →
    let t := { s with dataIn := rest }
    (s.halt = true → exec (.init ndr) s = .next t) ∧
    (s.halt = false → ndr = 0 →
      exec (.init ndr) s = .next { t with halt := true, cause := 3, errcmd := 0x00000001 }) ∧
    (s.halt = false → ndr ≠ 0 →
      ∃ ws : Words,
        exec (.init ndr) s =
          .next { t with words := some ws, ndr := ndr, offset := s.cfg.cap } ∧
        ws[0] = 0x61707865 ∧ ws[1] = 0x3320646e ∧ ws[2] = 0x79622d32 ∧ ws[3] = 0x6b206574 ∧
        (∀ (j : Nat) (hj : j < 8),
          ws[4 + j].toNat = (key.getD (4 * j) 0).toNat + 256 * (key.getD (4 * j + 1) 0).toNat
            + 65536 * (key.getD (4 * j + 2) 0).toNat + 16777216 * (key.getD (4 * j + 3) 0).toNat) ∧
        ws[12] = 0 ∧ ws[13] = 0 ∧
        (∀ (j : Nat) (hj : j < 2),
          ws[14 + j].toNat = (nonce.getD (4 * j) 0).toNat + 256 * (nonce.getD (4 * j + 1) 0).toNat
            + 65536 * (nonce.getD (4 * j + 2) 0).toNat
            + 16777216 * (nonce.getD (4 * j + 3) 0).toNat))

/-- RDREG (44_register_access.md R200, 60_exceptions.md R227): each register's four bytes, sent also while
halted and changing nothing else; a reserved index, a State index without TEST_ACCESS and a State index
before INIT raise their causes, or are dropped while halted. -/
def Obligations.RdregReadsEveryRegister : Prop :=
  ∀ (s : State) (reg : BitVec 5),
    let r := reg.toNat
    let sends := fun v : Word =>
      s.accepts 4 = true →
      exec (.rdreg reg) s =
        .next { s with
          dataOut := s.dataOut ++ [BitVec.ofNat 8 v.toNat, BitVec.ofNat 8 (v.toNat / 256),
            BitVec.ofNat 8 (v.toNat / 65536), BitVec.ofNat 8 (v.toNat / 16777216)]
          outRoom := s.outRoom.map fun room => room - 4 }
    let raises := fun c : BitVec 4 =>
      exec (.rdreg reg) s =
        .next (if s.halt then s
          else { s with halt := true, cause := c, errcmd := BitVec.ofNat 32 (256 * r + 3) })
    (0x15 ≤ r → raises 4) ∧
    (r < 0x10 → s.cfg.testAccess = false → raises 4) ∧
    (r < 0x10 → s.cfg.testAccess = true → s.words = none → raises 5) ∧
    (∀ (ws : Words) (hr : r < 0x10), s.cfg.testAccess = true → s.words = some ws → sends ws[r]) ∧
    (r = 0x10 → sends (BitVec.ofNat 32 (s.offset % 512))) ∧
    (r = 0x11 → sends (BitVec.ofNat 32 s.ndr.toNat)) ∧
    (r = 0x12 → sends (BitVec.ofNat 32 (s.words.isSome.toNat + 2 * s.halt.toNat
      + 16 * s.cause.toNat))) ∧
    (r = 0x13 → sends (BitVec.ofNat 32 ((match s.cfg.batch with | .one => 1 | .four => 4)
      + 16 * s.cfg.testAccess.toNat))) ∧
    (r = 0x14 → sends s.errcmd)

/-- WRCTR in a build with TEST_ACCESS (44_register_access.md R203): dropped while halted, NOT_INITIALIZED
before INIT, and else the counter written and the buffer discarded; its 8 bytes are consumed and nothing
else changes. Without TEST_ACCESS its word is an illegal opcode (30_encoding.md R86). -/
def Obligations.WrctrWritesTheCounter : Prop :=
  (∀ (s : State) (c0 c1 c2 c3 c4 c5 c6 c7 : Byte) (rest : List Byte),
    s.cfg.testAccess = true →
    s.dataIn = c0 :: c1 :: c2 :: c3 :: c4 :: c5 :: c6 :: c7 :: rest →
    let t := { s with dataIn := rest }
    (s.halt = true → exec .wrctr s = .next t) ∧
    (s.halt = false → s.words = none →
      exec .wrctr s = .next { t with halt := true, cause := 5, errcmd := 0x00000004 }) ∧
    (∀ ws : Words, s.halt = false → s.words = some ws →
      ∃ ws' : Words,
        exec .wrctr s = .next { t with words := some ws', offset := s.cfg.cap } ∧
        ws'[12].toNat = c0.toNat + 256 * c1.toNat + 65536 * c2.toNat + 16777216 * c3.toNat ∧
        ws'[13].toNat = c4.toNat + 256 * c5.toNat + 65536 * c6.toNat + 16777216 * c7.toNat ∧
        ∀ (k : Nat) (hk : k < 16), k ≠ 12 → k ≠ 13 → ws'[k] = ws[k])) ∧
  decode false 0x00000004 = .error .illegalOpcode

/-- APPLY where it does not run its loop (42_streaming_xor.md R171): dropped while halted, NOT_INITIALIZED
before INIT, with its LEN bytes consumed and nothing else changed. -/
def Obligations.ApplyRefusedKeepsTheStream : Prop :=
  ∀ (s : State) (len : BitVec 24), len.toNat ≤ s.dataIn.length →
    let t := { s with dataIn := s.dataIn.drop len.toNat }
    (s.halt = true → exec (.apply len) s = .next t) ∧
    (s.halt = false → s.words = none →
      exec (.apply len) s =
        .next { t with halt := true, cause := 5,
                       errcmd := BitVec.ofNat 32 (256 * len.toNat + 2) })

/-- APPLY with LEN = 0 (42_streaming_xor.md R173): after INIT it changes no state at all, even at
OFFSET = CAP; before INIT it raises NOT_INITIALIZED. -/
def Obligations.ApplyOfNoBytesChangesNothing : Prop :=
  ∀ s : State, s.halt = false →
    (s.initd = true → exec (.apply 0) s = .next s) ∧
    (s.initd = false →
      exec (.apply 0) s = .next { s with halt := true, cause := 5, errcmd := 0x00000002 })

/-- From every state of the invariant that is initialized and not halted, APPLY completes, sends LEN bytes
and consumes LEN bytes. It leaves OFFSET at most CAP: below CAP for LEN >= 1, and unchanged for LEN = 0
(10_state.md R28, 42_streaming_xor.md R173, R174). -/
def Obligations.ApplyCompletes : Prop :=
  ∀ (s : State) (len : BitVec 24), s.Inv → s.halt = false → s.initd = true →
    len.toNat ≤ s.dataIn.length → s.accepts len.toNat = true →
    ∃ t, exec (.apply len) s = .next t ∧ t.dataIn = s.dataIn.drop len.toNat ∧
      t.dataOut.length = s.dataOut.length + len.toNat ∧
      t.offset ≤ t.cfg.cap ∧ (1 ≤ len.toNat → t.offset < t.cfg.cap) ∧
      (len.toNat = 0 → t.offset = s.offset)

/-- The output of APPLY as a function of the stream position (42_streaming_xor.md R172): after n bytes it
sends in[k] XOR K(n + k), and the state is that of position n + LEN. -/
def Obligations.ApplyOutputsTheKeystreamXor : Prop :=
  ∀ (s : State) (ws0 : Words) (n : Nat) (len : BitVec 24) (inp rest : List Byte),
    AtPosition s ws0 n → s.halt = false → s.dataIn = inp ++ rest → inp.length = len.toNat →
    s.accepts len.toNat = true →
    ∃ t, exec (.apply len) s = .next t ∧
      t.dataOut = s.dataOut
        ++ List.zipWith (fun x k => x ^^^ k) inp (keystreamFrom ws0 s.ndr n len.toNat) ∧
      AtPosition t ws0 (n + len.toNat) ∧ t.dataIn = rest ∧ t.ndr = s.ndr ∧ t.cfg = s.cfg

/-- INIT, and WRCTR in a build with TEST_ACCESS, leave a stream at position 0 of the State they leave
(42_streaming_xor.md R172). -/
def Obligations.InitAndWrctrStartAStream : Prop :=
  (∀ (s t : State) (ndr : BitVec 8), s.halt = false → ndr ≠ 0 →
    exec (.init ndr) s = .next t →
    ∃ ws, t.words = some ws ∧ AtPosition t ws 0 ∧ Words.ctr ws = 0) ∧
  (∀ s t : State, s.cfg.testAccess = true → s.halt = false → s.initd = true →
    exec .wrctr s = .next t →
    ∃ ws, t.words = some ws ∧ AtPosition t ws 0)

/-- A command of the build (WRCTR is one only with TEST_ACCESS, 30_encoding.md R86) with too few data-in bytes
takes no step: the engine waits (70_reset_and_hazards.md R264; the model's stop for it, log 4). -/
def Obligations.StarvedCommandsWait : Prop :=
  ∀ (s : State) (i : Instr), i.encodable s.cfg = true → s.dataIn.length < dinLen i →
    exec i s = .fault .stuckDataIn

/-- A command whose data-out the host does not accept takes no step (70_reset_and_hazards.md R264; the
model's stop for it, log 5). -/
def Obligations.UnacceptedOutputWaits : Prop :=
  (∀ (s : State) (reg : BitVec 5) (v : Word), s.regValue (Reg.ofIndex reg) = .ok v →
    s.accepts 4 = false → exec (.rdreg reg) s = .fault .stuckDataOut) ∧
  (∀ (s : State) (len : BitVec 24), s.Inv → s.halt = false → s.initd = true →
    len.toNat ≤ s.dataIn.length → s.accepts len.toNat = false →
    exec (.apply len) s = .fault .stuckDataOut)

/-! ### Frames -/

/-- What INIT, RDREG and WRCTR (the last in a build with TEST_ACCESS) leave unchanged: every byte of KSB, the
build, the port and the reset input; RDREG also S with INITD, OFFSET, NDR and data-in; WRCTR also NDR,
INITD, data-out and every State word but S[12] and S[13]; INIT also data-out. HALT, CAUSE and ERRCMD are
unchanged where INIT or WRCTR executes, where RDREG sends, and where any of them is dropped
(10_state.md R23, R25, R29, R30, 60_exceptions.md R227). -/
def Obligations.FrameOfInitRdregWrctr : Prop :=
  (∀ (s t : State) (i : Instr), i.encodable s.cfg = true → (∀ len, i ≠ .apply len) →
    exec i s = .next t →
    (∀ a, Memory.read t.ksb a = Memory.read s.ksb a) ∧ t.cfg = s.cfg ∧ t.cmdIn = s.cmdIn ∧
    t.resetIn = s.resetIn) ∧
  (∀ (s t : State) (ndr : BitVec 8), exec (.init ndr) s = .next t →
    t.dataOut = s.dataOut ∧ t.outRoom = s.outRoom ∧
    (s.halt = true ∨ ndr ≠ 0 → t.halt = s.halt ∧ t.cause = s.cause ∧ t.errcmd = s.errcmd) ∧
    (s.halt = true ∨ ndr = 0 → t.words = s.words ∧ t.offset = s.offset ∧ t.ndr = s.ndr)) ∧
  (∀ (s t : State) (reg : BitVec 5), exec (.rdreg reg) s = .next t →
    t.words = s.words ∧ t.offset = s.offset ∧ t.ndr = s.ndr ∧ t.dataIn = s.dataIn ∧
    (s.halt = true ∨ t.dataOut ≠ s.dataOut →
      t.halt = s.halt ∧ t.cause = s.cause ∧ t.errcmd = s.errcmd)) ∧
  (∀ s t : State, s.cfg.testAccess = true → exec .wrctr s = .next t →
    t.ndr = s.ndr ∧ t.initd = s.initd ∧ t.dataOut = s.dataOut ∧ t.outRoom = s.outRoom ∧
    (s.halt = true ∨ s.initd = true →
      t.halt = s.halt ∧ t.cause = s.cause ∧ t.errcmd = s.errcmd) ∧
    (s.halt = true ∨ s.initd = false → t.words = s.words ∧ t.offset = s.offset) ∧
    ∀ ws, s.words = some ws →
      ∃ ws' : Words, t.words = some ws' ∧
        ∀ (k : Nat) (hk : k < 16), k ≠ 12 → k ≠ 13 → ws'[k] = ws[k])

/-- What APPLY leaves unchanged: NDR, the build, the port, INITD, HALT, CAUSE and ERRCMD where it executes or is
dropped, every State word but S[12] and S[13], KSB outside its CAP bytes, and all of KSB and S where its
bytes do not reach the end of the buffer (10_state.md R23, R25, 42_streaming_xor.md R171). -/
def Obligations.FrameOfApply : Prop :=
  ∀ (s t : State) (len : BitVec 24), exec (.apply len) s = .next t →
    t.cfg = s.cfg ∧ t.ndr = s.ndr ∧ t.cmdIn = s.cmdIn ∧ t.resetIn = s.resetIn ∧
    t.initd = s.initd ∧
    (s.halt = true ∨ s.initd = true →
      t.halt = s.halt ∧ t.cause = s.cause ∧ t.errcmd = s.errcmd) ∧
    (∀ a, s.cfg.cap ≤ a → Memory.read t.ksb a = Memory.read s.ksb a) ∧
    (s.offset + len.toNat < s.cfg.cap ∨ len = 0 ∨ s.halt = true ∨ s.initd = false →
      t.words = s.words ∧ ∀ a, Memory.read t.ksb a = Memory.read s.ksb a) ∧
    ∀ ws, s.words = some ws →
      ∃ ws' : Words, t.words = some ws' ∧
        ∀ (k : Nat) (hk : k < 16), k ≠ 12 → k ≠ 13 → ws'[k] = ws[k]

/-! ### Errors -/

/-- Which cause a command reports (60_exceptions.md R221, R222): the first of the order of R222, and none
where no check fails. -/
def Obligations.CauseFollowsThePriority : Prop :=
  ∀ (s t : State) (w : Word) (rest : List Word),
    s.resetIn = false → s.cmdIn = w :: rest → s.halt = false → s.cause = 0 → step s = .next t →
    (t.halt = true ↔ t.cause ≠ 0) ∧
    t.cause =
      match decode s.cfg.testAccess w with
      | .error .illegalOpcode => 1
      | .error .reservedField => 2
      | .ok (.init ndr) => if ndr = 0 then 3 else 0
      | .ok (.rdreg reg) =>
        if 0x15 ≤ reg.toNat ∨ (reg.toNat < 0x10 ∧ s.cfg.testAccess = false) then 4
        else if reg.toNat < 0x10 ∧ s.initd = false then 5
        else 0
      | .ok (.apply _) => if s.initd = false then 5 else 0
      | .ok .wrctr => if s.initd = false then 5 else 0

/-- A command or word that raises an error is precise (60_exceptions.md R224, R225, R226): it sets HALT,
CAUSE and ERRCMD (to its own word), consumes its DINLEN bytes, and changes nothing else. -/
def Obligations.ErrorsArePrecise : Prop :=
  ∀ (s t : State) (w : Word) (rest : List Word),
    s.resetIn = false → s.cmdIn = w :: rest → s.halt = false → step s = .next t → t.halt = true →
    1 ≤ t.cause.toNat ∧ t.cause.toNat ≤ 5 ∧
    t = { s with
      cmdIn := rest
      dataIn := s.dataIn.drop (dinLenOfWord s.cfg.testAccess w)
      halt := true
      cause := t.cause
      errcmd := w }

/-- Words that are no command complete with an error, or are dropped while halted (60_exceptions.md R221,
R225, R227). -/
def Obligations.IllegalWordsRaiseTheirError : Prop :=
  ∀ (s : State) (w : Word) (rest : List Word) (e : DecodeError),
    s.resetIn = false → s.cmdIn = w :: rest → decode s.cfg.testAccess w = .error e →
    step s =
      .next (if s.halt then { s with cmdIn := rest }
        else { s with
          cmdIn := rest
          halt := true
          cause := match e with | .illegalOpcode => 1 | .reservedField => 2
          errcmd := w })

/-- Halted behaviour (60_exceptions.md R227): a RDREG whose checks pass executes; every other word is
dropped, its data-in bytes consumed, with no data-out and no other change. -/
def Obligations.HaltedEngineOnlyReads : Prop :=
  ∀ (s : State) (w : Word) (rest : List Word),
    s.resetIn = false → s.cmdIn = w :: rest → s.halt = true →
    dinLenOfWord s.cfg.testAccess w ≤ s.dataIn.length →
    (∀ (reg : BitVec 5) (v : Word), decode s.cfg.testAccess w = .ok (.rdreg reg) →
      s.regValue (Reg.ofIndex reg) = .ok v → s.accepts 4 = true →
      step s = .next (State.sent (bytesLe32 v) { s with cmdIn := rest })) ∧
    ((∀ (reg : BitVec 5) (v : Word), decode s.cfg.testAccess w = .ok (.rdreg reg) →
      s.regValue (Reg.ofIndex reg) ≠ .ok v) →
      step s =
        .next { s with
          cmdIn := rest
          dataIn := s.dataIn.drop (dinLenOfWord s.cfg.testAccess w) })

/-- No command clears an error and none replaces it; only reset does (60_exceptions.md R228). -/
def Obligations.OnlyResetClearsAnError : Prop :=
  ∀ s t : State, s.halt = true → step s = .next t →
    (s.resetIn = false → t.halt = true ∧ t.cause = s.cause ∧ t.errcmd = s.errcmd) ∧
    (s.resetIn = true → t.halt = false ∧ t.cause = 0 ∧ t.errcmd = 0)

/-! ### Rules of the whole machine -/

/-- How many bytes a completed command takes and sends (30_encoding.md R88). -/
def Obligations.DataLengthsPerCommand : Prop :=
  ∀ (s t : State) (w : Word) (rest : List Word),
    s.resetIn = false → s.cmdIn = w :: rest → step s = .next t →
    let din :=
      match decode s.cfg.testAccess w with
      | .ok (.init _) => 40
      | .ok (.apply len) => len.toNat
      | .ok (.rdreg _) => 0
      | .ok .wrctr => 8
      | .error _ => 0
    let dout :=
      match decode s.cfg.testAccess w with
      | .ok (.init _) => 0
      | .ok (.apply len) => if s.halt = false ∧ s.initd = true then len.toNat else 0
      | .ok (.rdreg reg) =>
        if reg.toNat ≤ 0x14
            ∧ (0x10 ≤ reg.toNat ∨ (s.cfg.testAccess = true ∧ s.initd = true)) then 4
        else 0
      | .ok .wrctr => 0
      | .error _ => 0
    t.cmdIn = rest ∧ din ≤ s.dataIn.length ∧ t.dataIn = s.dataIn.drop din ∧
    ∃ out, t.dataOut = s.dataOut ++ out ∧ out.length = dout

/-- The writers of the State, exhaustively (10_state.md R23): no command but INIT changes a word other than
S[12] and S[13], and none but INIT, APPLY and WRCTR changes S at all. -/
def Obligations.OnlyItsWritersChangeTheState : Prop :=
  ∀ (s t : State) (w : Word) (rest : List Word),
    s.resetIn = false → s.cmdIn = w :: rest → step s = .next t →
    (∀ ndr, decode s.cfg.testAccess w ≠ .ok (.init ndr)) →
    (s.words = none → t.words = none) ∧
    (∀ ws, s.words = some ws →
      ∃ ws' : Words, t.words = some ws' ∧
        ∀ (k : Nat) (hk : k < 16), k ≠ 12 → k ≠ 13 → ws'[k] = ws[k]) ∧
    ((∀ len, decode s.cfg.testAccess w ≠ .ok (.apply len)) →
      decode s.cfg.testAccess w ≠ .ok .wrctr → t.words = s.words)

/-- CONFIG is hardwired (10_state.md R33): no step, reset included, changes the build, and its word is B in
bits 3:0, TEST_ACCESS in bit 4 and zero above. -/
def Obligations.ConfigIsHardwired : Prop :=
  (∀ s t : State, step s = .next t → t.cfg = s.cfg ∧ Config.word t.cfg = Config.word s.cfg) ∧
  ∀ c : Config, (Config.word c).toNat =
    (match c.batch with | .one => 1 | .four => 4) + 16 * c.testAccess.toNat

/-- The invariant holds after reset of every build. -/
def Obligations.ResetMeetsTheInvariant : Prop :=
  ∀ c : Config, (State.resetOf c).Inv

/-- Every step from a state of the invariant, reset and waiting included, gives a state of the invariant
(10_state.md R23, R25, R28 to R31, 20_memory.md R61). -/
def Obligations.StepKeepsTheInvariant : Prop :=
  ∀ s t : State, s.Inv → step s = .next t → t.Inv

/-- From a state of the invariant a step stops only where the engine waits for the host: it never reads a
keystream byte that has no value, APPLY's loop ends, and nothing is refused (10_state.md R26, R28,
42_streaming_xor.md R171; the model's stops, log 3 and log 11). -/
def Obligations.InvariantRulesOutTheModelStops : Prop :=
  ∀ s : State, s.Inv →
    step s ≠ .fault .keystreamUnset ∧ step s ≠ .fault .applyStuck ∧ ∀ r, step s ≠ .refused r

/-! ### The Permutation Engine -/

/-- "QR is a bijection on 128 bits" (40_permutation.md R111). -/
def Obligations.QuarterRoundIsBijective : Prop :=
  Function.Bijective quarterRound

/-- LROT's lanes and its inverse (40_permutation.md R113), the lanes DIAGONALIZE leaves (R114), and
UNDIAGONALIZE undoing it (R115). -/
def Obligations.LaneRotationsAndTheirInverses : Prop :=
  (∀ (v : V4) (k : Nat), 1 ≤ k → k ≤ 3 →
    (∀ i, i < 4 → (lrot v k).lane i = v.lane ((i + k) % 4)) ∧ lrot (lrot v k) (4 - k) = v) ∧
  (∀ (x : Words) (i : Nat) (hi : i < 4),
    let r := diagonalize (Rows.ofWords x)
    r.a.lane i = x[i] ∧ r.b.lane i = x[4 + (i + 1) % 4] ∧ r.c.lane i = x[8 + (i + 2) % 4] ∧
    r.d.lane i = x[12 + (i + 3) % 4]) ∧
  ∀ r : Rows, undiagonalize (diagonalize r) = r

/-- DOUBLEROUND is the eight quarter rounds of its scalar form (40_permutation.md R117). -/
def Obligations.DoubleRoundEqualsItsScalarForm : Prop :=
  ∀ x : Words, (doubleRound (Rows.ofWords x)).toWords = doubleRoundScalar x

/-- PERMUTE is NDR double rounds, and the zero block is a fixed point of it for every NDR
(40_permutation.md R118). -/
def Obligations.PermuteRepeatsTheDoubleRound : Prop :=
  (∀ (n : Nat) (r : Rows), permute n r = doubleRound^[n] r) ∧
  ∀ n : Nat, (permute n (Rows.ofWords (Vector.replicate 16 0))).toWords = Vector.replicate 16 0

/-! ### The Batch Block Generator -/

/-- The working copy of block j is S with the counter CTR + j modulo 2^64 (41_batch_generator.md R140). -/
def Obligations.WorkingCopyHoldsItsCounter : Prop :=
  ∀ (ws : Words) (j : Nat),
    (workingCopy ws j)[12].toNat + 2 ^ 32 * (workingCopy ws j)[13].toNat =
      (ws[12].toNat + 2 ^ 32 * ws[13].toNat + j) % 2 ^ 64 ∧
    ∀ (k : Nat) (hk : k < 16), k ≠ 12 → k ≠ 13 → (workingCopy ws j)[k] = ws[k]

/-- The counter advance (41_batch_generator.md R147): the low word plus B, the carry into the high word, a
carry out of the high word lost, and so CTR + B modulo 2^64; no other word changes. -/
def Obligations.CounterAdvanceCarries : Prop :=
  ∀ (ws : Words) (b : BatchWidth),
    let t := advanceCounter ws b.blocks
    t[12].toNat = (ws[12].toNat + b.blocks) % 2 ^ 32 ∧
    t[13].toNat = (ws[13].toNat + (ws[12].toNat + b.blocks) / 2 ^ 32) % 2 ^ 32 ∧
    Words.ctr t = Words.ctr ws + BitVec.ofNat 64 b.blocks ∧
    ∀ (k : Nat) (hk : k < 16), k ≠ 12 → k ≠ 13 → t[k] = ws[k]

/-- BLOCK's bytes (41_batch_generator.md R142, R143, R144): byte k is byte lane k mod 4 of word k div 4 of
the permuted working copy with the working copy added back; the block has 64 bytes. -/
def Obligations.BlockSerializesTheFinalizedWords : Prop :=
  ∀ (ws : Words) (ndr : BitVec 8) (j : Nat),
    let w := workingCopy ws j
    let x := (permute ndr.toNat (Rows.ofWords w)).toWords
    (block ws ndr j).length = 64 ∧
    ∀ (k : Nat) (hk : k < 64),
      (block ws ndr j)[k]? =
        some (BitVec.ofNat 8 ((x[k / 4] + w[k / 4]).toNat / 2 ^ (8 * (k % 4))))

/-- GENERATE (41_batch_generator.md R146): all blocks come from the counter before the advance, each at
its 64 offsets, nothing else of KSB changes, CTR advances by B and OFFSET does not change. -/
def Obligations.GenerateFillsTheBuffer : Prop :=
  ∀ (c : Config) (ndr : BitVec 8) (st : CipherStream),
    let g := generate c ndr st
    (∀ j k, j < c.batch.blocks → k < 64 →
      Memory.read g.ksb (64 * j + k) = (block st.words ndr j)[k]?) ∧
    (∀ a, c.cap ≤ a → Memory.read g.ksb a = Memory.read st.ksb a) ∧
    Words.ctr g.words = Words.ctr st.words + BitVec.ofNat 64 c.batch.blocks ∧
    (∀ (k : Nat) (hk : k < 16), k ≠ 12 → k ≠ 13 → g.words[k] = st.words[k]) ∧
    g.offset = st.offset

/-- Batch widths are equivalent (41_batch_generator.md R149): one GENERATE of four blocks writes the blocks
of four successive GENERATEs of one, and leaves the same State. -/
def Obligations.BatchWidthsGenerateTheSameBlocks : Prop :=
  ∀ (c1 c4 : Config) (ndr : BitVec 8) (st : CipherStream),
    c1.batch = .one → c4.batch = .four →
    (generate c4 ndr st).words = ((generate c1 ndr)^[4] st).words ∧
    ∀ j k, j < 4 → k < 64 →
      Memory.read (generate c4 ndr st).ksb (64 * j + k) =
        Memory.read ((generate c1 ndr)^[j + 1] st).ksb k

/-! ### Streams -/

/-- Chunking invariance (42_streaming_xor.md R176): any split of a byte string over APPLY commands completes
with the outputs, and the whole state, of one APPLY of all of it. -/
def Obligations.ChunkingIsInvisible : Prop :=
  ∀ (s : State) (lens : List (BitVec 24)) (total : BitVec 24),
    s.Inv → s.halt = false → s.initd = true →
    (lens.map BitVec.toNat).sum = total.toNat → total.toNat ≤ s.dataIn.length →
    s.accepts total.toNat = true →
    ∃ t, runAll (lens.map Instr.apply) s = .next t ∧ exec (.apply total) s = .next t

/-- XOR is its own inverse (42_streaming_xor.md R177): INIT and APPLY of a byte string complete, and after
the same INIT, in any state of any build, APPLY of their output gives the byte string back. -/
def Obligations.ApplyIsSelfInverse : Prop :=
  ∀ (s1 : State) (ndr : BitVec 8) (len : BitVec 24) (key nonce plain r1 : List Byte),
    ndr ≠ 0 → key.length = 32 → nonce.length = 8 → plain.length = len.toNat →
    s1.halt = false → s1.accepts len.toNat = true → s1.dataIn = key ++ nonce ++ plain ++ r1 →
    ∃ (t1 : State) (cipher : List Byte),
      runAll [.init ndr, .apply len] s1 = .next t1 ∧ t1.dataOut = s1.dataOut ++ cipher ∧
      cipher.length = len.toNat ∧
      ∀ (s2 : State) (r2 : List Byte), s2.halt = false → s2.accepts len.toNat = true →
        s2.dataIn = key ++ nonce ++ cipher ++ r2 →
        ∃ t2, runAll [.init ndr, .apply len] s2 = .next t2 ∧ t2.dataOut = s2.dataOut ++ plain

/-- The batch width changes no output (42_streaming_xor.md R178). The reset states of a B = 1 and a B = 4
engine are alike but for the width; from alike states, whatever the host offers and accepts, a step that
takes reset or whose command reads none of S12, S13, OFFSET and CONFIG leaves alike states, with the same
bytes sent, or stops alike; and so does any list of such commands of the build. The stops and the port
after reset are the model's (log 4, log 5, log 7). -/
def Obligations.BatchWidthIsInvisible : Prop :=
  (∀ testAccess : Bool,
    AlikeButForWidth (State.resetOf ⟨.one, testAccess⟩) (State.resetOf ⟨.four, testAccess⟩)) ∧
  (∀ s1 s4 : State, AlikeButForWidth s1 s4 →
    (s1.resetIn = true ∨ ∀ (w : Word) (rest : List Word) (i : Instr),
      s1.cmdIn = w :: rest → decode s1.cfg.testAccess w = .ok i → readsBatchWidth i = false) →
    AlikeResults (step s1) (step s4)) ∧
  ∀ (s1 s4 : State) (commands : List Instr), AlikeButForWidth s1 s4 →
    (∀ i, i ∈ commands → i.encodable s1.cfg = true ∧ readsBatchWidth i = false) →
    AlikeResults (runAll commands s1) (runAll commands s4)
end

