-- ==== Sys2Proof/Laws/Memory.lean ====
section
/-! SUPPORT. The laws of the keystream buffer's operations: read after write, and the canonical form. -/

namespace Sys2Proof.Machine

theorem Memory.read_write_same (m : Memory) (a : Nat) (v : Byte) :
    Memory.read (Memory.write m a v) a = some v := by
  induction m with
  | nil => simp [Memory.write, Memory.read]
  | cons cell m ih =>
    obtain ⟨k, b⟩ := cell
    unfold Memory.write
    split
    · simp [Memory.read]
    · split
      · simp [Memory.read]
      · simp [Memory.read, *]

theorem Memory.read_write_other (m : Memory) (a a' : Nat) (v : Byte) (h : a' ≠ a) :
    Memory.read (Memory.write m a v) a' = Memory.read m a' := by
  induction m with
  | nil => simp [Memory.write, Memory.read, h]
  | cons cell m ih =>
    obtain ⟨k, b⟩ := cell
    unfold Memory.write
    split
    · simp [Memory.read, h]
    · split
      · subst_vars; simp [Memory.read, h]
      · simp only [Memory.read, ih]

theorem Memory.read_write (m : Memory) (a a' : Nat) (v : Byte) :
    Memory.read (Memory.write m a v) a' = if a' = a then some v else Memory.read m a' := by
  split
  · subst_vars; exact Memory.read_write_same m _ v
  · exact Memory.read_write_other m a a' v ‹_›

/-- The bytes of a `writeBytes` are where it wrote them, and every other offset reads as before. -/
theorem Memory.read_writeBytes (vs : List Byte) (m : Memory) (a a' : Nat) :
    Memory.read (Memory.writeBytes m a vs) a' =
      if a ≤ a' ∧ a' < a + vs.length then vs[a' - a]? else Memory.read m a' := by
  induction vs generalizing m a with
  | nil => rw [Memory.writeBytes, if_neg (by simp)]
  | cons v vs ih =>
    rw [Memory.writeBytes, ih, Memory.read_write]
    rcases Nat.lt_trichotomy a' a with h | h | h
    · rw [if_neg (by omega), if_neg (by omega), if_neg (by simp; omega)]
    · subst h; simp
    · obtain ⟨d, rfl⟩ : ∃ d, a' = a + 1 + d := ⟨a' - (a + 1), by omega⟩
      rw [show a + 1 + d - (a + 1) = d by omega, show a + 1 + d - a = d + 1 by omega]
      simp only [List.getElem?_cons_succ, List.length_cons]
      by_cases hd : d < vs.length
      · rw [if_pos (by omega), if_pos (by omega)]
      · rw [if_neg (by omega), if_neg (by omega), if_neg (by omega)]

theorem Memory.readBytes_eq (m : Memory) (a n : Nat) (bs : List Byte) (hlen : bs.length = n)
    (h : ∀ k, k < n → Memory.read m (a + k) = bs[k]?) : Memory.readBytes m a n = some bs := by
  induction n generalizing a bs with
  | zero => cases bs with
    | nil => rfl
    | cons _ _ => simp at hlen
  | succ n ih =>
    cases bs with
    | nil => simp at hlen
    | cons b bs =>
      have h0 : Memory.read m a = some b := by simpa using h 0 (by omega)
      have hrest : Memory.readBytes m (a + 1) n = some bs :=
        ih (a + 1) bs (by simpa using hlen) fun k hk => by
          have := h (k + 1) (by omega)
          rw [show a + (k + 1) = a + 1 + k by omega] at this
          simpa using this
      simp [Memory.readBytes, h0, hrest]

theorem Memory.readBytes_inv (m : Memory) (a n : Nat) (bs : List Byte)
    (h : Memory.readBytes m a n = some bs) :
    bs.length = n ∧ ∀ k, k < n → Memory.read m (a + k) = bs[k]? := by
  induction n generalizing a bs with
  | zero =>
    simp only [Memory.readBytes, Option.some.injEq] at h
    subst h; simp
  | succ n ih =>
    unfold Memory.readBytes at h
    split at h
    · rename_i b bs' hb hbs
      simp only [Option.some.injEq] at h
      subst h
      obtain ⟨hl, hr⟩ := ih (a + 1) bs' hbs
      refine ⟨by simp [hl], fun k hk => ?_⟩
      cases k with
      | zero => simpa using hb
      | succ k => simpa [Nat.add_assoc, Nat.add_comm 1 k] using hr k (by omega)
    · cases h

theorem Memory.risingFrom_le (m : Memory) (lo lo' : Nat) (hle : lo' ≤ lo)
    (h : Memory.risingFrom lo m = true) : Memory.risingFrom lo' m = true := by
  cases m with
  | nil => rfl
  | cons cell m =>
    simp only [Memory.risingFrom, Bool.and_eq_true, decide_eq_true_eq] at h ⊢
    exact ⟨by omega, h.2⟩

theorem Memory.risingFrom_write (m : Memory) (lo a : Nat) (v : Byte) (ha : lo ≤ a)
    (h : Memory.risingFrom lo m = true) : Memory.risingFrom lo (Memory.write m a v) = true := by
  induction m generalizing lo with
  | nil => simpa [Memory.write, Memory.risingFrom] using ha
  | cons cell m ih =>
    obtain ⟨k, b⟩ := cell
    simp only [Memory.risingFrom, Bool.and_eq_true, decide_eq_true_eq] at h
    unfold Memory.write
    split
    · simp only [Memory.risingFrom, Bool.and_eq_true, decide_eq_true_eq]
      exact ⟨ha, by omega, h.2⟩
    · split
      · subst_vars
        simp only [Memory.risingFrom, Bool.and_eq_true, decide_eq_true_eq]
        exact ⟨ha, h.2⟩
      · simp only [Memory.risingFrom, Bool.and_eq_true, decide_eq_true_eq]
        exact ⟨h.1, ih (k + 1) (by omega) h.2⟩

theorem Memory.all_lt_write (m : Memory) (cap a : Nat) (v : Byte) (ha : a < cap)
    (h : (m.all fun cell => decide (cell.1 < cap)) = true) :
    ((Memory.write m a v).all fun cell => decide (cell.1 < cap)) = true := by
  induction m with
  | nil => simpa [Memory.write] using ha
  | cons cell m ih =>
    obtain ⟨k, b⟩ := cell
    simp only [List.all_cons, Bool.and_eq_true, decide_eq_true_eq] at h
    unfold Memory.write
    split
    · simp only [List.all_cons, Bool.and_eq_true, decide_eq_true_eq]
      exact ⟨ha, h.1, h.2⟩
    · split
      · simp only [List.all_cons, Bool.and_eq_true, decide_eq_true_eq]
        exact ⟨ha, h.2⟩
      · simp only [List.all_cons, Bool.and_eq_true, decide_eq_true_eq]
        exact ⟨h.1, ih h.2⟩

/-- A write below the capacity keeps the canonical form. -/
theorem Memory.wf_write (m : Memory) (cap a : Nat) (v : Byte) (ha : a < cap)
    (h : Memory.wf cap m = true) : Memory.wf cap (Memory.write m a v) = true := by
  simp only [Memory.wf, Bool.and_eq_true] at h ⊢
  exact ⟨Memory.risingFrom_write m 0 a v (Nat.zero_le a) h.1, Memory.all_lt_write m cap a v ha h.2⟩

theorem Memory.wf_writeBytes (vs : List Byte) (m : Memory) (cap a : Nat) (ha : a + vs.length ≤ cap)
    (h : Memory.wf cap m = true) : Memory.wf cap (Memory.writeBytes m a vs) = true := by
  induction vs generalizing m a with
  | nil => exact h
  | cons v vs ih =>
    simp only [List.length_cons] at ha
    exact ih _ (a + 1) (by omega) (Memory.wf_write m cap a v (by omega) h)

theorem Memory.read_of_rising (m : Memory) (lo a : Nat) (h : Memory.risingFrom lo m = true)
    (ha : a < lo) : Memory.read m a = none := by
  induction m generalizing lo with
  | nil => rfl
  | cons cell m ih =>
    obtain ⟨k, b⟩ := cell
    simp only [Memory.risingFrom, Bool.and_eq_true, decide_eq_true_eq] at h
    rw [Memory.read, if_neg (by omega)]
    exact ih (k + 1) h.2 (by omega)

theorem Memory.ext_of_rising (m m' : Memory) (lo : Nat) (h : Memory.risingFrom lo m = true)
    (h' : Memory.risingFrom lo m' = true) (hread : ∀ a, Memory.read m a = Memory.read m' a) :
    m = m' := by
  induction m generalizing m' lo with
  | nil =>
    cases m' with
    | nil => rfl
    | cons cell m' => simpa [Memory.read] using hread cell.1
  | cons cell m ih =>
    obtain ⟨k, b⟩ := cell
    cases m' with
    | nil => simpa [Memory.read] using hread k
    | cons cell' m' =>
      obtain ⟨k', b'⟩ := cell'
      simp only [Memory.risingFrom, Bool.and_eq_true, decide_eq_true_eq] at h h'
      have hk : k = k' := by
        rcases Nat.lt_trichotomy k k' with hlt | heq | hgt
        · have := hread k
          rw [Memory.read, if_pos rfl, Memory.read, if_neg (by omega),
            Memory.read_of_rising m' (k' + 1) k h'.2 (by omega)] at this
          cases this
        · exact heq
        · have := hread k'
          rw [Memory.read, if_neg (by omega), Memory.read, if_pos rfl,
            Memory.read_of_rising m (k + 1) k' h.2 (by omega)] at this
          cases this
      subst hk
      have hb : b = b' := by simpa [Memory.read] using hread k
      subst hb
      have htail : m = m' := by
        refine ih m' (k + 1) h.2 h'.2 fun a => ?_
        by_cases ha : a = k
        · rw [Memory.read_of_rising m (k + 1) a h.2 (by omega),
            Memory.read_of_rising m' (k + 1) a h'.2 (by omega)]
        · have := hread a
          rwa [Memory.read, if_neg ha, Memory.read, if_neg ha] at this
      rw [htail]

theorem Memory.read_of_all_lt (m : Memory) (cap a : Nat)
    (h : (m.all fun cell => decide (cell.1 < cap)) = true) (ha : cap ≤ a) :
    Memory.read m a = none := by
  induction m with
  | nil => rfl
  | cons cell m ih =>
    obtain ⟨k, b⟩ := cell
    simp only [List.all_cons, Bool.and_eq_true, decide_eq_true_eq] at h
    rw [Memory.read, if_neg (by omega)]
    exact ih h.2

/-- Canonical buffers that read alike within the capacity are equal data. -/
theorem Memory.ext_of_wf (m m' : Memory) (cap : Nat) (h : Memory.wf cap m = true)
    (h' : Memory.wf cap m' = true)
    (hread : ∀ a, a < cap → Memory.read m a = Memory.read m' a) : m = m' := by
  simp only [Memory.wf, Bool.and_eq_true] at h h'
  refine Memory.ext_of_rising m m' 0 h.1 h'.1 fun a => ?_
  by_cases ha : a < cap
  · exact hread a ha
  · rw [Memory.read_of_all_lt m cap a h.2 (by omega), Memory.read_of_all_lt m' cap a h'.2 (by omega)]

theorem Memory.wf_nil (cap : Nat) : Memory.wf cap [] = true := rfl

end Sys2Proof.Machine
end

