-- ==== Sys2Proof/Laws/Words.lean ====
section
/-! SUPPORT. The laws of the State words, their counter, and the length of a serialized block. -/

namespace Sys2Proof.Machine

theorem Words.setCtr_other (ws : Words) (v : BitVec 64) (k : Nat) (hk : k < 16) (h12 : k ≠ 12)
    (h13 : k ≠ 13) : (Words.setCtr ws v)[k] = ws[k] := by
  simp only [Words.setCtr]
  rw [Vector.getElem_set_ne _ _ (Ne.symm h13), Vector.getElem_set_ne _ _ (Ne.symm h12)]

theorem Words.setCtr_low (ws : Words) (v : BitVec 64) :
    (Words.setCtr ws v)[12] = v.extractLsb' 0 32 := by
  simp [Words.setCtr]

theorem Words.setCtr_high (ws : Words) (v : BitVec 64) :
    (Words.setCtr ws v)[13] = v.extractLsb' 32 32 := by
  simp [Words.setCtr]

/-- Two word files with the same words other than 12 and 13, and the same counter words, are equal. -/
theorem Words.ext_ctr (x y : Words) (h12 : x[12] = y[12]) (h13 : x[13] = y[13])
    (h : ∀ k (hk : k < 16), k ≠ 12 → k ≠ 13 → x[k] = y[k]) : x = y := by
  apply Vector.ext
  intro k hk
  by_cases e12 : k = 12
  · subst e12; exact h12
  · by_cases e13 : k = 13
    · subst e13; exact h13
    · exact h k hk e12 e13

@[simp] theorem Words.ctr_setCtr (ws : Words) (v : BitVec 64) :
    Words.ctr (Words.setCtr ws v) = v := by
  rw [Words.ctr, Words.setCtr_low, Words.setCtr_high]
  apply BitVec.eq_of_getLsbD_eq
  intro i hi
  rw [BitVec.getLsbD_append]
  by_cases h : i < 32
  · rw [if_pos h, BitVec.getLsbD_extractLsb']
    simp [h]
  · rw [if_neg h, BitVec.getLsbD_extractLsb', show 32 + (i - 32) = i by omega]
    simp [show i - 32 < 32 by omega]

@[simp] theorem Words.setCtr_setCtr (ws : Words) (u v : BitVec 64) :
    Words.setCtr (Words.setCtr ws u) v = Words.setCtr ws v := by
  apply Words.ext_ctr
  · simp [Words.setCtr_low]
  · simp [Words.setCtr_high]
  · intro k hk h12 h13
    simp [Words.setCtr_other _ _ k hk h12 h13]

/-- The low counter word is the counter's bits 31:0. -/
theorem Words.low_of_ctr (ws : Words) : (Words.ctr ws).extractLsb' 0 32 = ws[12] := by
  apply BitVec.eq_of_getLsbD_eq
  intro i hi
  rw [Words.ctr, BitVec.getLsbD_extractLsb', BitVec.getLsbD_append, if_pos (by omega)]
  simp [hi]

/-- The high counter word is the counter's bits 63:32. -/
theorem Words.high_of_ctr (ws : Words) : (Words.ctr ws).extractLsb' 32 32 = ws[13] := by
  apply BitVec.eq_of_getLsbD_eq
  intro i hi
  rw [Words.ctr, BitVec.getLsbD_extractLsb', BitVec.getLsbD_append, if_neg (by omega)]
  simp [hi]

@[simp] theorem Words.setCtr_ctr (ws : Words) : Words.setCtr ws (Words.ctr ws) = ws := by
  apply Words.ext_ctr
  · simp [Words.setCtr_low, Words.low_of_ctr]
  · simp [Words.setCtr_high, Words.high_of_ctr]
  · intro k hk h12 h13
    exact Words.setCtr_other _ _ k hk h12 h13

@[simp] theorem bytesLe32_length (w : Word) : (bytesLe32 w).length = 4 := rfl

theorem flatMap_bytesLe32_length (l : List Word) : (l.flatMap bytesLe32).length = 4 * l.length := by
  induction l with
  | nil => rfl
  | cons w l ih => simp [List.flatMap_cons, ih]; omega

@[simp] theorem serialize_length (y : Words) : (serialize y).length = 64 := by
  rw [serialize, flatMap_bytesLe32_length, Vector.length_toList]

end Sys2Proof.Machine
end

