-- ==== Sys2Proof/Laws/Streaming.lean ====
section
/-! SUPPORT. The equations of APPLY's loop and of its refill. -/

namespace Sys2Proof.Machine

theorem applyLoop_nil (c : Config) (ndr : BitVec 8) (fuel : Nat) (out : List Byte)
    (st : CipherStream) : applyLoop c ndr fuel [] out st = .ok (out, st) := by
  cases fuel <;> rfl

/-- One iteration, where the bytes it consumes are there. -/
theorem applyLoop_iteration (c : Config) (ndr : BitVec 8) (fuel : Nat) (left out ks : List Byte)
    (st : CipherStream) (hleft : left ≠ [])
    (hks : st.ksb.readBytes st.offset (min (c.cap - st.offset) left.length) = some ks) :
    applyLoop c ndr (fuel + 1) left out st =
      applyLoop c ndr fuel (left.drop (min (c.cap - st.offset) left.length))
        (out ++ xorBytes (left.take (min (c.cap - st.offset) left.length)) ks)
        (refillIfEmpty c ndr
          { st with offset := st.offset + min (c.cap - st.offset) left.length }) := by
  cases left with
  | nil => exact absurd rfl hleft
  | cons x xs => simp only [applyLoop, hks]

theorem refillIfEmpty_of_ne (c : Config) (ndr : BitVec 8) (st : CipherStream)
    (h : st.offset ≠ c.cap) : refillIfEmpty c ndr st = st := by
  simp [refillIfEmpty, h]

theorem refillIfEmpty_of_eq (c : Config) (ndr : BitVec 8) (st : CipherStream)
    (h : st.offset = c.cap) :
    refillIfEmpty c ndr st = { generate c ndr st with offset := 0 } := by
  simp [refillIfEmpty, h]

@[simp] theorem xorBytes_length (inp ks : List Byte) :
    (xorBytes inp ks).length = min inp.length ks.length := by
  simp [xorBytes]

@[simp] theorem block_length (ws : Words) (ndr : BitVec 8) (j : Nat) :
    (block ws ndr j).length = 64 := by
  simp [block]

theorem writeBlocks_wf (ws : Words) (ndr : BitVec 8) (m : Memory) (n cap : Nat) (hn : 64 * n ≤ cap)
    (h : Memory.wf cap m = true) : Memory.wf cap (writeBlocks ws ndr m n) = true := by
  induction n with
  | zero => exact h
  | succ n ih =>
    exact Memory.wf_writeBytes _ _ cap (64 * n) (by simp; omega) (ih (by omega))

/-- GENERATE keeps the buffer's canonical form. -/
theorem generate_wf (c : Config) (ndr : BitVec 8) (st : CipherStream)
    (h : Memory.wf c.cap st.ksb = true) : Memory.wf c.cap (generate c ndr st).ksb = true :=
  writeBlocks_wf _ _ _ _ _ (by simp [Config.cap]) h

theorem refillIfEmpty_wf (c : Config) (ndr : BitVec 8) (st : CipherStream)
    (h : Memory.wf c.cap st.ksb = true) : Memory.wf c.cap (refillIfEmpty c ndr st).ksb = true := by
  unfold refillIfEmpty
  split
  · exact generate_wf c ndr st h
  · exact h

end Sys2Proof.Machine
end

