-- ==== Sys2Proof/Laws/State.lean ====
section
/-! SUPPORT. One lemma per field for each named update of State, so that no later proof unfolds a record
update. -/

namespace Sys2Proof.Machine

/-! ### State.sent -/

@[simp] theorem State.sent_cfg (bs : List Byte) (s : State) :
    (s.sent bs).cfg = s.cfg := rfl
@[simp] theorem State.sent_words (bs : List Byte) (s : State) :
    (s.sent bs).words = s.words := rfl
@[simp] theorem State.sent_ksb (bs : List Byte) (s : State) :
    (s.sent bs).ksb = s.ksb := rfl
@[simp] theorem State.sent_offset (bs : List Byte) (s : State) :
    (s.sent bs).offset = s.offset := rfl
@[simp] theorem State.sent_ndr (bs : List Byte) (s : State) :
    (s.sent bs).ndr = s.ndr := rfl
@[simp] theorem State.sent_halt (bs : List Byte) (s : State) :
    (s.sent bs).halt = s.halt := rfl
@[simp] theorem State.sent_cause (bs : List Byte) (s : State) :
    (s.sent bs).cause = s.cause := rfl
@[simp] theorem State.sent_errcmd (bs : List Byte) (s : State) :
    (s.sent bs).errcmd = s.errcmd := rfl
@[simp] theorem State.sent_resetIn (bs : List Byte) (s : State) :
    (s.sent bs).resetIn = s.resetIn := rfl
@[simp] theorem State.sent_cmdIn (bs : List Byte) (s : State) :
    (s.sent bs).cmdIn = s.cmdIn := rfl
@[simp] theorem State.sent_dataIn (bs : List Byte) (s : State) :
    (s.sent bs).dataIn = s.dataIn := rfl
@[simp] theorem State.sent_dataOut (bs : List Byte) (s : State) :
    (s.sent bs).dataOut = s.dataOut ++ bs := rfl
@[simp] theorem State.sent_outRoom (bs : List Byte) (s : State) :
    (s.sent bs).outRoom = s.outRoom.map fun room => room - bs.length := rfl

/-! ### State.raiseError -/

@[simp] theorem State.raiseError_cfg (c : Cause) (w : Word) (s : State) :
    (s.raiseError c w).cfg = s.cfg := rfl
@[simp] theorem State.raiseError_words (c : Cause) (w : Word) (s : State) :
    (s.raiseError c w).words = s.words := rfl
@[simp] theorem State.raiseError_ksb (c : Cause) (w : Word) (s : State) :
    (s.raiseError c w).ksb = s.ksb := rfl
@[simp] theorem State.raiseError_offset (c : Cause) (w : Word) (s : State) :
    (s.raiseError c w).offset = s.offset := rfl
@[simp] theorem State.raiseError_ndr (c : Cause) (w : Word) (s : State) :
    (s.raiseError c w).ndr = s.ndr := rfl
@[simp] theorem State.raiseError_halt (c : Cause) (w : Word) (s : State) :
    (s.raiseError c w).halt = true := rfl
@[simp] theorem State.raiseError_cause (c : Cause) (w : Word) (s : State) :
    (s.raiseError c w).cause = c.code := rfl
@[simp] theorem State.raiseError_errcmd (c : Cause) (w : Word) (s : State) :
    (s.raiseError c w).errcmd = w := rfl
@[simp] theorem State.raiseError_resetIn (c : Cause) (w : Word) (s : State) :
    (s.raiseError c w).resetIn = s.resetIn := rfl
@[simp] theorem State.raiseError_cmdIn (c : Cause) (w : Word) (s : State) :
    (s.raiseError c w).cmdIn = s.cmdIn := rfl
@[simp] theorem State.raiseError_dataIn (c : Cause) (w : Word) (s : State) :
    (s.raiseError c w).dataIn = s.dataIn := rfl
@[simp] theorem State.raiseError_dataOut (c : Cause) (w : Word) (s : State) :
    (s.raiseError c w).dataOut = s.dataOut := rfl
@[simp] theorem State.raiseError_outRoom (c : Cause) (w : Word) (s : State) :
    (s.raiseError c w).outRoom = s.outRoom := rfl

/-! ### State.loadCipherStream -/

@[simp] theorem State.loadCipherStream_cfg (ws : Words) (n : BitVec 8) (s : State) :
    (s.loadCipherStream ws n).cfg = s.cfg := rfl
@[simp] theorem State.loadCipherStream_words (ws : Words) (n : BitVec 8) (s : State) :
    (s.loadCipherStream ws n).words = some ws := rfl
@[simp] theorem State.loadCipherStream_ksb (ws : Words) (n : BitVec 8) (s : State) :
    (s.loadCipherStream ws n).ksb = s.ksb := rfl
@[simp] theorem State.loadCipherStream_offset (ws : Words) (n : BitVec 8) (s : State) :
    (s.loadCipherStream ws n).offset = s.cfg.cap := rfl
@[simp] theorem State.loadCipherStream_ndr (ws : Words) (n : BitVec 8) (s : State) :
    (s.loadCipherStream ws n).ndr = n := rfl
@[simp] theorem State.loadCipherStream_halt (ws : Words) (n : BitVec 8) (s : State) :
    (s.loadCipherStream ws n).halt = s.halt := rfl
@[simp] theorem State.loadCipherStream_cause (ws : Words) (n : BitVec 8) (s : State) :
    (s.loadCipherStream ws n).cause = s.cause := rfl
@[simp] theorem State.loadCipherStream_errcmd (ws : Words) (n : BitVec 8) (s : State) :
    (s.loadCipherStream ws n).errcmd = s.errcmd := rfl
@[simp] theorem State.loadCipherStream_resetIn (ws : Words) (n : BitVec 8) (s : State) :
    (s.loadCipherStream ws n).resetIn = s.resetIn := rfl
@[simp] theorem State.loadCipherStream_cmdIn (ws : Words) (n : BitVec 8) (s : State) :
    (s.loadCipherStream ws n).cmdIn = s.cmdIn := rfl
@[simp] theorem State.loadCipherStream_dataIn (ws : Words) (n : BitVec 8) (s : State) :
    (s.loadCipherStream ws n).dataIn = s.dataIn := rfl
@[simp] theorem State.loadCipherStream_dataOut (ws : Words) (n : BitVec 8) (s : State) :
    (s.loadCipherStream ws n).dataOut = s.dataOut := rfl
@[simp] theorem State.loadCipherStream_outRoom (ws : Words) (n : BitVec 8) (s : State) :
    (s.loadCipherStream ws n).outRoom = s.outRoom := rfl

/-! ### State.writeCounter -/

@[simp] theorem State.writeCounter_cfg (ws : Words) (v : BitVec 64) (s : State) :
    (s.writeCounter ws v).cfg = s.cfg := rfl
@[simp] theorem State.writeCounter_words (ws : Words) (v : BitVec 64) (s : State) :
    (s.writeCounter ws v).words = some (Words.setCtr ws v) := rfl
@[simp] theorem State.writeCounter_ksb (ws : Words) (v : BitVec 64) (s : State) :
    (s.writeCounter ws v).ksb = s.ksb := rfl
@[simp] theorem State.writeCounter_offset (ws : Words) (v : BitVec 64) (s : State) :
    (s.writeCounter ws v).offset = s.cfg.cap := rfl
@[simp] theorem State.writeCounter_ndr (ws : Words) (v : BitVec 64) (s : State) :
    (s.writeCounter ws v).ndr = s.ndr := rfl
@[simp] theorem State.writeCounter_halt (ws : Words) (v : BitVec 64) (s : State) :
    (s.writeCounter ws v).halt = s.halt := rfl
@[simp] theorem State.writeCounter_cause (ws : Words) (v : BitVec 64) (s : State) :
    (s.writeCounter ws v).cause = s.cause := rfl
@[simp] theorem State.writeCounter_errcmd (ws : Words) (v : BitVec 64) (s : State) :
    (s.writeCounter ws v).errcmd = s.errcmd := rfl
@[simp] theorem State.writeCounter_resetIn (ws : Words) (v : BitVec 64) (s : State) :
    (s.writeCounter ws v).resetIn = s.resetIn := rfl
@[simp] theorem State.writeCounter_cmdIn (ws : Words) (v : BitVec 64) (s : State) :
    (s.writeCounter ws v).cmdIn = s.cmdIn := rfl
@[simp] theorem State.writeCounter_dataIn (ws : Words) (v : BitVec 64) (s : State) :
    (s.writeCounter ws v).dataIn = s.dataIn := rfl
@[simp] theorem State.writeCounter_dataOut (ws : Words) (v : BitVec 64) (s : State) :
    (s.writeCounter ws v).dataOut = s.dataOut := rfl
@[simp] theorem State.writeCounter_outRoom (ws : Words) (v : BitVec 64) (s : State) :
    (s.writeCounter ws v).outRoom = s.outRoom := rfl

/-! ### State.setCipherStream -/

@[simp] theorem State.setCipherStream_cfg (st : CipherStream) (s : State) :
    (s.setCipherStream st).cfg = s.cfg := rfl
@[simp] theorem State.setCipherStream_words (st : CipherStream) (s : State) :
    (s.setCipherStream st).words = some st.words := rfl
@[simp] theorem State.setCipherStream_ksb (st : CipherStream) (s : State) :
    (s.setCipherStream st).ksb = st.ksb := rfl
@[simp] theorem State.setCipherStream_offset (st : CipherStream) (s : State) :
    (s.setCipherStream st).offset = st.offset := rfl
@[simp] theorem State.setCipherStream_ndr (st : CipherStream) (s : State) :
    (s.setCipherStream st).ndr = s.ndr := rfl
@[simp] theorem State.setCipherStream_halt (st : CipherStream) (s : State) :
    (s.setCipherStream st).halt = s.halt := rfl
@[simp] theorem State.setCipherStream_cause (st : CipherStream) (s : State) :
    (s.setCipherStream st).cause = s.cause := rfl
@[simp] theorem State.setCipherStream_errcmd (st : CipherStream) (s : State) :
    (s.setCipherStream st).errcmd = s.errcmd := rfl
@[simp] theorem State.setCipherStream_resetIn (st : CipherStream) (s : State) :
    (s.setCipherStream st).resetIn = s.resetIn := rfl
@[simp] theorem State.setCipherStream_cmdIn (st : CipherStream) (s : State) :
    (s.setCipherStream st).cmdIn = s.cmdIn := rfl
@[simp] theorem State.setCipherStream_dataIn (st : CipherStream) (s : State) :
    (s.setCipherStream st).dataIn = s.dataIn := rfl
@[simp] theorem State.setCipherStream_dataOut (st : CipherStream) (s : State) :
    (s.setCipherStream st).dataOut = s.dataOut := rfl
@[simp] theorem State.setCipherStream_outRoom (st : CipherStream) (s : State) :
    (s.setCipherStream st).outRoom = s.outRoom := rfl

/-! ### State.takeCommand -/

@[simp] theorem State.takeCommand_nil (s : State) (h : s.cmdIn = []) : s.takeCommand = none := by
  simp [State.takeCommand, h]

theorem State.takeCommand_cons (s : State) (w : Word) (rest : List Word) (h : s.cmdIn = w :: rest) :
    s.takeCommand = some (w, { s with cmdIn := rest }) := by
  simp [State.takeCommand, h]

end Sys2Proof.Machine
end

