-- ==== Sys2Proof/Laws/Streams.lean ====
section
/-! SUPPORT. Everything the stream operations can do: taking data-in bytes, sending data-out bytes. -/

namespace Sys2Proof.Machine

theorem withDataIn_of_le (n : Nat) (s : State) (k : List Byte → State → Result)
    (h : n ≤ s.dataIn.length) :
    withDataIn n s k = k (s.dataIn.take n) { s with dataIn := s.dataIn.drop n } := by
  simp [withDataIn, State.dinRead, h]

theorem withDataIn_of_lt (n : Nat) (s : State) (k : List Byte → State → Result)
    (h : s.dataIn.length < n) : withDataIn n s k = .fault .stuckDataIn := by
  simp [withDataIn, State.dinRead, Nat.not_le.mpr h]

/-- A command that takes bytes and answers a next state had them. -/
theorem withDataIn_next (n : Nat) (s t : State) (k : List Byte → State → Result)
    (h : withDataIn n s k = .next t) :
    n ≤ s.dataIn.length ∧ k (s.dataIn.take n) { s with dataIn := s.dataIn.drop n } = .next t := by
  by_cases hn : n ≤ s.dataIn.length
  · exact ⟨hn, by rwa [withDataIn_of_le n s k hn] at h⟩
  · rw [withDataIn_of_lt n s k (by omega)] at h
    cases h

theorem doutWrite_of_accepts (bytes : List Byte) (s : State) (h : s.accepts bytes.length = true) :
    doutWrite bytes s = .next (s.sent bytes) := by
  simp [doutWrite, h]

theorem doutWrite_of_not_accepts (bytes : List Byte) (s : State)
    (h : s.accepts bytes.length = false) : doutWrite bytes s = .fault .stuckDataOut := by
  simp [doutWrite, h]

theorem doutWrite_next (bytes : List Byte) (s t : State) (h : doutWrite bytes s = .next t) :
    s.accepts bytes.length = true ∧ t = s.sent bytes := by
  unfold doutWrite at h
  split at h
  · exact ⟨‹_›, by simpa using h.symm⟩
  · cases h

theorem accepts_none (n : Nat) (s : State) (h : s.outRoom = none) : s.accepts n = true := by
  simp [State.accepts, h]

theorem accepts_some (n room : Nat) (s : State) (h : s.outRoom = some room) :
    s.accepts n = decide (n ≤ room) := by
  simp [State.accepts, h]

theorem refuseCommand_halted (c : Cause) (w : Word) (s : State) (h : s.halt = true) :
    s.refuseCommand c w = s := by
  simp [State.refuseCommand, h]

theorem refuseCommand_running (c : Cause) (w : Word) (s : State) (h : s.halt = false) :
    s.refuseCommand c w = s.raiseError c w := by
  simp [State.refuseCommand, h]

/-- What refusing a command leaves alone: everything but HALT, CAUSE and ERRCMD (60_exceptions.md R224). -/
theorem refuseCommand_frame (c : Cause) (w : Word) (s : State) :
    (s.refuseCommand c w).cfg = s.cfg ∧ (s.refuseCommand c w).words = s.words ∧
    (s.refuseCommand c w).ksb = s.ksb ∧ (s.refuseCommand c w).offset = s.offset ∧
    (s.refuseCommand c w).ndr = s.ndr ∧ (s.refuseCommand c w).resetIn = s.resetIn ∧
    (s.refuseCommand c w).cmdIn = s.cmdIn ∧ (s.refuseCommand c w).dataIn = s.dataIn ∧
    (s.refuseCommand c w).dataOut = s.dataOut ∧ (s.refuseCommand c w).outRoom = s.outRoom := by
  unfold State.refuseCommand
  split <;> simp

end Sys2Proof.Machine
end

