-- ==== Sys2Proof/Laws/Commands.lean ====
section
/-! SUPPORT. Everything a command can do where it answers a next state, one lemma a command, and the
induction over APPLY's loop; later proofs cite these and unfold no meaning. -/

namespace Sys2Proof.Machine

/-- INIT is dropped, refused, or loads the CipherStream of its 40 bytes. -/
theorem execInit_next (ndr : BitVec 8) (s t : State) (h : exec (.init ndr) s = .next t) :
    40 ≤ s.dataIn.length ∧
      ((s.halt = true ∧ t = { s with dataIn := s.dataIn.drop 40 }) ∨
       (s.halt = false ∧ ndr = 0 ∧
        t = State.raiseError .illegalRounds (encode (.init ndr))
          { s with dataIn := s.dataIn.drop 40 }) ∨
       (s.halt = false ∧ ndr ≠ 0 ∧
        t = State.loadCipherStream
          (initialWords ((s.dataIn.take 40).take 32) ((s.dataIn.take 40).drop 32)) ndr
          { s with dataIn := s.dataIn.drop 40 })) := by
  obtain ⟨hlen, hk⟩ := withDataIn_next _ _ _ _ h
  refine ⟨hlen, ?_⟩
  dsimp only at hk
  split at hk
  · rename_i hh
    cases hk
    exact .inl ⟨hh, rfl⟩
  · rename_i hh
    have hf : s.halt = false := by simpa using hh
    split at hk
    · rename_i h0
      cases hk
      exact .inr (.inl ⟨hf, h0, rfl⟩)
    · rename_i h0
      cases hk
      exact .inr (.inr ⟨hf, h0, rfl⟩)

/-- WRCTR is dropped, refused, or writes the counter of its 8 bytes. -/
theorem execWrctr_next (s t : State) (h : exec .wrctr s = .next t) :
    8 ≤ s.dataIn.length ∧
      ((s.halt = true ∧ t = { s with dataIn := s.dataIn.drop 8 }) ∨
       (s.halt = false ∧ s.words = none ∧
        t = State.raiseError .notInitialized (encode .wrctr)
          { s with dataIn := s.dataIn.drop 8 }) ∨
       (s.halt = false ∧ ∃ ws, s.words = some ws ∧
        t = State.writeCounter ws (le32At (s.dataIn.take 8) 1 ++ le32At (s.dataIn.take 8) 0)
          { s with dataIn := s.dataIn.drop 8 })) := by
  obtain ⟨hlen, hk⟩ := withDataIn_next _ _ _ _ h
  refine ⟨hlen, ?_⟩
  dsimp only at hk
  split at hk
  · rename_i hh
    cases hk
    exact .inl ⟨hh, rfl⟩
  · rename_i hh
    have hf : s.halt = false := by simpa using hh
    split at hk
    · rename_i hw
      cases hk
      exact .inr (.inl ⟨hf, hw, rfl⟩)
    · rename_i ws hw
      cases hk
      exact .inr (.inr ⟨hf, ws, hw, rfl⟩)

/-- RDREG sends its register or is refused. -/
theorem execRdreg_next (reg : BitVec 5) (s t : State) (h : exec (.rdreg reg) s = .next t) :
    (∃ v, s.regValue (Reg.ofIndex reg) = .ok v ∧ s.accepts 4 = true ∧
      t = s.sent (bytesLe32 v)) ∨
    (∃ c, s.regValue (Reg.ofIndex reg) = .error c ∧
      t = s.refuseCommand c (encode (.rdreg reg))) := by
  change execRdreg reg s = _ at h
  unfold execRdreg at h
  split at h
  · rename_i v hv
    obtain ⟨ha, ht⟩ := doutWrite_next _ _ _ h
    exact .inl ⟨v, hv, ha, ht⟩
  · rename_i c hc
    cases h
    exact .inr ⟨c, hc, rfl⟩

/-- APPLY is dropped, refused, or sends what its loop makes and keeps the CipherStream it leaves. -/
theorem execApply_next (len : BitVec 24) (s t : State) (h : exec (.apply len) s = .next t) :
    len.toNat ≤ s.dataIn.length ∧
      ((s.halt = true ∧ t = { s with dataIn := s.dataIn.drop len.toNat }) ∨
       (s.halt = false ∧ s.words = none ∧
        t = State.raiseError .notInitialized (encode (.apply len))
          { s with dataIn := s.dataIn.drop len.toNat }) ∨
       (s.halt = false ∧ ∃ ws out st, s.words = some ws ∧
        applyLoop s.cfg s.ndr (len.toNat + 1) (s.dataIn.take len.toNat) []
          ⟨ws, s.ksb, s.offset⟩ = .ok (out, st) ∧
        s.accepts out.length = true ∧
        t = State.sent out
          (State.setCipherStream st { s with dataIn := s.dataIn.drop len.toNat }))) := by
  obtain ⟨hlen, hk⟩ := withDataIn_next _ _ _ _ h
  refine ⟨hlen, ?_⟩
  dsimp only at hk
  split at hk
  · rename_i hh
    cases hk
    exact .inl ⟨hh, rfl⟩
  · rename_i hh
    have hf : s.halt = false := by simpa using hh
    split at hk
    · rename_i hw
      cases hk
      exact .inr (.inl ⟨hf, hw, rfl⟩)
    · rename_i ws hw
      split at hk
      · cases hk
      · rename_i out st hl
        obtain ⟨ha, ht⟩ := doutWrite_next _ _ _ hk
        exact .inr (.inr ⟨hf, ws, out, st, hw, hl, ha, ht⟩)

/-- What holds at the loop's start and is kept by every iteration holds where the loop ends. -/
theorem applyLoop_induction (c : Config) (ndr : BitVec 8)
    (P : List Byte → List Byte → CipherStream → Prop)
    (iteration : ∀ left out st ks, left ≠ [] → P left out st →
      st.ksb.readBytes st.offset (min (c.cap - st.offset) left.length) = some ks →
      P (left.drop (min (c.cap - st.offset) left.length))
        (out ++ xorBytes (left.take (min (c.cap - st.offset) left.length)) ks)
        (refillIfEmpty c ndr
          { st with offset := st.offset + min (c.cap - st.offset) left.length }))
    (fuel : Nat) (left out out' : List Byte) (st st' : CipherStream) (hP : P left out st)
    (h : applyLoop c ndr fuel left out st = .ok (out', st')) : P [] out' st' := by
  induction fuel generalizing left out st with
  | zero =>
    cases left with
    | nil => cases h; exact hP
    | cons x xs => cases h
  | succ fuel ih =>
    cases left with
    | nil => cases h; exact hP
    | cons x xs =>
      rw [applyLoop] at h
      split at h
      · cases h
      · rename_i ks hks
        exact ih _ _ _ (iteration (x :: xs) out st ks (List.cons_ne_nil x xs) hP hks) h

/-- The buffer after the first `n` blocks of a batch: their keystream below offset `64 * n`, and its old
bytes from there on. -/
theorem read_writeBlocks (ws : Words) (ndr : BitVec 8) (m : Memory) (n a : Nat) :
    Memory.read (writeBlocks ws ndr m n) a =
      if a < 64 * n then some (keystream ws ndr a) else Memory.read m a := by
  induction n with
  | zero => simp [writeBlocks]
  | succ n ih =>
    rw [writeBlocks, Memory.read_writeBytes, ih, block_length]
    by_cases h : 64 * n ≤ a ∧ a < 64 * n + 64
    · have hd : a / 64 = n := by omega
      have hm : a % 64 = a - 64 * n := by omega
      rw [if_pos h, if_pos (by omega), keystream, hd, hm, List.getD_eq_getElem?_getD,
        List.getElem?_eq_getElem (by rw [block_length]; omega), Option.getD_some]
    · rw [if_neg h]
      by_cases h' : a < 64 * n
      · rw [if_pos h', if_pos (by omega)]
      · rw [if_neg h', if_neg (by omega)]

end Sys2Proof.Machine
end

