-- ==== Sys2Proof/Laws/PerInstr.lean ====
section
/-! SUPPORT. Facts said of every command, one lemma per constructor of Instr. -/

namespace Sys2Proof.Laws

/-- The common fields of every format (30_encoding.md R81, R86): a command's word has its own opcode in
bits 3:0 and zero in bits 7:4. -/
def CommonFields.Statement (i : Instr) : Prop :=
  rsv0Field (encode i) = 0 ∧
  opField (encode i) =
    match i with
    | .init _ => 0x1
    | .apply _ => 0x2
    | .rdreg _ => 0x3
    | .wrctr => 0x4

/-- The low nibble of a word that ends in the nibbles `r` and `op`. -/
theorem opField_append (x : BitVec 24) (r op : BitVec 4) : opField (x ++ r ++ op) = op := by
  apply BitVec.eq_of_getLsbD_eq
  intro i hi
  simp only [opField, BitVec.getLsbD_extractLsb', hi, decide_true, Bool.true_and, Nat.zero_add]
  rw [BitVec.getLsbD_append, if_pos hi]

/-- The second nibble of a word that ends in the nibbles `r` and `op`. -/
theorem rsv0Field_append (x : BitVec 24) (r op : BitVec 4) : rsv0Field (x ++ r ++ op) = r := by
  apply BitVec.eq_of_getLsbD_eq
  intro i hi
  simp only [rsv0Field, BitVec.getLsbD_extractLsb', hi, decide_true, Bool.true_and]
  rw [BitVec.getLsbD_append, if_neg (by omega), Nat.add_sub_cancel_left, BitVec.getLsbD_append,
    if_pos hi]

theorem CommonFields.init (ndr : BitVec 8) : CommonFields.Statement (.init ndr) :=
  ⟨rsv0Field_append (0#16 ++ ndr) 0 0x1, opField_append (0#16 ++ ndr) 0 0x1⟩

theorem CommonFields.apply (len : BitVec 24) : CommonFields.Statement (.apply len) :=
  ⟨rsv0Field_append len 0 0x2, opField_append len 0 0x2⟩

theorem CommonFields.rdreg (reg : BitVec 5) : CommonFields.Statement (.rdreg reg) :=
  ⟨rsv0Field_append (0#19 ++ reg) 0 0x3, opField_append (0#19 ++ reg) 0 0x3⟩

theorem CommonFields.wrctr : CommonFields.Statement .wrctr :=
  ⟨by decide, by decide⟩

end Sys2Proof.Laws
end

