-- ==== Sys2Proof/Laws/Step.lean ====
section
/-! SUPPORT. Everything a step can do. -/

namespace Sys2Proof.Machine

/-- A step takes reset, or waits at an empty port, or runs the next command word. -/
theorem step_cases (s : State) :
    (s.resetIn = true ∧ step s = .next s.takeReset) ∨
    (s.resetIn = false ∧ s.cmdIn = [] ∧ step s = .next s) ∨
    (s.resetIn = false ∧ ∃ w rest, s.cmdIn = w :: rest ∧
      step s = runWord w { s with cmdIn := rest }) := by
  cases hr : s.resetIn with
  | true => exact .inl ⟨rfl, by simp [step, hr]⟩
  | false =>
    cases hc : s.cmdIn with
    | nil => exact .inr (.inl ⟨rfl, rfl, by simp [step, hr, State.takeCommand, hc]⟩)
    | cons w rest =>
      exact .inr (.inr ⟨rfl, w, rest, rfl, by simp [step, hr, State.takeCommand, hc]⟩)

theorem runWord_ok (w : Word) (s : State) (i : Instr) (h : decode s.cfg.testAccess w = .ok i) :
    runWord w s = exec i s := by
  simp [runWord, h]

theorem runWord_error (w : Word) (s : State) (e : DecodeError)
    (h : decode s.cfg.testAccess w = .error e) :
    runWord w s = .next (s.refuseCommand (Cause.ofDecodeError e) w) := by
  simp [runWord, h]

/-- The state reset leaves, field by field. -/
theorem takeReset_fields (s : State) :
    s.takeReset.cfg = s.cfg ∧ s.takeReset.words = none ∧ s.takeReset.ksb = [] ∧
    s.takeReset.offset = s.cfg.cap ∧ s.takeReset.ndr = 10 ∧ s.takeReset.halt = false ∧
    s.takeReset.cause = 0 ∧ s.takeReset.errcmd = 0 ∧ s.takeReset.resetIn = false ∧
    s.takeReset.dataOut = s.dataOut ∧ s.takeReset.outRoom = s.outRoom :=
  ⟨rfl, rfl, rfl, rfl, rfl, rfl, rfl, rfl, rfl, rfl, rfl⟩

/-- Reset ends a command the engine waits in: its word and its data-in bytes are gone from the ports. -/
theorem takeReset_waiting (s : State) (w : Word) (rest : List Word) (f : Fault)
    (hc : s.cmdIn = w :: rest) (hf : runWord w { s with cmdIn := rest } = .fault f)
    (hw : f.waiting = true) :
    s.takeReset.cmdIn = rest ∧
      s.takeReset.dataIn = s.dataIn.drop (dinLenOfWord s.cfg.testAccess w) := by
  simp [State.takeReset, State.abandonCommand, State.commandInProgress, State.takeCommand, hc, hf, hw]

/-- Reset leaves the ports as they are where the next word would complete. -/
theorem takeReset_completing (s u : State) (w : Word) (rest : List Word) (hc : s.cmdIn = w :: rest)
    (hn : runWord w { s with cmdIn := rest } = .next u) :
    s.takeReset.cmdIn = s.cmdIn ∧ s.takeReset.dataIn = s.dataIn := by
  simp [State.takeReset, State.abandonCommand, State.commandInProgress, State.takeCommand, hc, hn]

/-- Reset leaves the ports as they are where no word is offered. -/
theorem takeReset_idle (s : State) (hc : s.cmdIn = []) :
    s.takeReset.cmdIn = s.cmdIn ∧ s.takeReset.dataIn = s.dataIn := by
  simp [State.takeReset, State.abandonCommand, State.commandInProgress, State.takeCommand, hc]

end Sys2Proof.Machine
end

