-- ==== Sys2Proof/Tests/Slice0.lean ====
section
/-! SUPPORT. Tests. Expected values are those of 95_test_vectors.md, or computed by hand from the rule a
test names. -/

namespace Sys2Proof.Tests

open Sys2Proof.Machine

/-! ### Well-formedness: each check refuses an ill-formed command -/

theorem test_wrctr_needs_test_access : Instr.wrctr.wellFormed ⟨.one, false⟩ = false := by decide

theorem test_zero_rounds_are_ill_formed : (Instr.init 0).wellFormed ⟨.one, true⟩ = false := by
  decide

theorem test_reserved_register_is_ill_formed :
    (Instr.rdreg 0x15).wellFormed ⟨.one, true⟩ = false := by decide

theorem test_state_register_needs_test_access :
    (Instr.rdreg 0x0F).wellFormed ⟨.four, false⟩ = false := by decide

theorem test_well_formed_commands :
    [Instr.init 255, .apply 0, .rdreg 0x14, .rdreg 0, .wrctr].all
      (Instr.wellFormed ⟨.four, true⟩) = true := by decide

/-! ### Decoding: words written bit by bit from the formats (30_encoding.md R82 to R85) -/

/-- Format I: RSV1 = 0, NDR = 0xA5, RSV0 = 0, OP = 1. -/
theorem test_decode_init :
    decode false 0b00000000000000001010010100000001 = .ok (.init 0xA5) := by decide

/-- Format A: LEN = 0xC30F81, RSV0 = 0, OP = 2. -/
theorem test_decode_apply :
    decode false 0b11000011000011111000000100000010 = .ok (.apply 0xC30F81) := by decide

/-- Format R: RSV1 = 0, REG = 0x1A, RSV0 = 0, OP = 3. -/
theorem test_decode_rdreg :
    decode false 0b00000000000000000001101000000011 = .ok (.rdreg 0x1A) := by decide

/-- Format Z: all zero above OP = 4. -/
theorem test_decode_wrctr : decode true 0b00000000000000000000000000000100 = .ok .wrctr := by
  decide

/-- Section 3.8, E2, E4, E6, E12, E13. -/
theorem test_decode_refuses :
    decode true 0x00000005 = .error .illegalOpcode ∧
    decode true 0x00000012 = .error .reservedField ∧
    decode true 0x00010a01 = .error .reservedField ∧
    decode true 0x00002003 = .error .reservedField ∧
    decode true 0x00000104 = .error .reservedField := by decide

/-- Section 3.9. -/
theorem test_encode_words :
    encode (.init 10) = 0x00000a01 ∧ encode (.apply 16777215) = 0xffffff02 ∧
    encode (.rdreg 0x14) = 0x00001403 ∧ encode .wrctr = 0x00000004 := by decide

theorem test_decodeTableWord : decodeTableWord 32 0x00004002 = some (.apply 64) := by decide

/-! ### The Permutation Engine (sections 2.1 and 3.1) -/

/-- Section 2.1, RFC 8439 §2.1.1. -/
theorem test_quarterRound_published :
    quarterRound ⟨0x11111111, 0x01020304, 0x9b8d6f43, 0x01234567⟩ =
      ⟨0xea2a92f4, 0xcb1cf8ce, 0x4581472e, 0x5881c4bb⟩ := by decide

/-- Section 3.1, Q4: the additions wrap. -/
theorem test_quarterRound_wraps :
    quarterRound ⟨0xffffffff, 0x00000001, 0xffffffff, 0x00000000⟩ =
      ⟨0xffffefff, 0x08080080, 0xffeffffe, 0xffefffff⟩ := by decide

/-- Section 3.1, L4. -/
theorem test_diagonalize :
    diagonalize ⟨⟨0, 1, 2, 3⟩, ⟨4, 5, 6, 7⟩, ⟨8, 9, 10, 11⟩, ⟨12, 13, 14, 15⟩⟩ =
      ⟨⟨0, 1, 2, 3⟩, ⟨5, 6, 7, 4⟩, ⟨10, 11, 8, 9⟩, ⟨15, 12, 13, 14⟩⟩ := by decide

/-- Section 3.1, D1. -/
theorem test_doubleRound :
    doubleRound ⟨⟨0, 1, 2, 3⟩, ⟨4, 5, 6, 7⟩, ⟨8, 9, 10, 11⟩, ⟨12, 13, 14, 15⟩⟩ =
      ⟨⟨0xa9295c6a, 0xb471be7a, 0x38e65ec4, 0x74348b87⟩,
       ⟨0xf1ad76c6, 0x7b44627b, 0x946682b0, 0xf12f4910⟩,
       ⟨0xd7e22f80, 0x3232ddd4, 0xb5b3b74d, 0xc0240444⟩,
       ⟨0xc8a5de45, 0xe417e1d3, 0x1a392478, 0x983c4ebf⟩⟩ := by decide

/-! ### The Batch Block Generator (section 3.2) -/

/-- The State INIT leaves for the zero key and nonce. -/
def zeroWords : Words := initialWords (List.replicate 32 0) (List.replicate 8 0)

/-- Section 2.2, B-Z20-0: the first bytes of the published ChaCha20 block. -/
theorem test_block_published :
    (block zeroWords 10 0).take 16 =
      [0x76, 0xb8, 0xe0, 0xad, 0xa0, 0xf1, 0x3d, 0x90, 0x40, 0x5d, 0x6a, 0xe5, 0x53, 0x86, 0xbd,
       0x28] := by decide

/-- Section 3.2, BK3: 2 rounds, the last bytes of the block. -/
theorem test_block_two_rounds :
    (block zeroWords 1 0).drop 60 = [0x65, 0x21, 0xc6, 0x87] := by decide

/-- Section 3.4, C2: the carry inside a batch of four; block 1 of `CTR = 0x00000000ffffffff` is the block
of the carried counter. -/
theorem test_working_copy_carries :
    Words.ctr (workingCopy (Words.setCtr zeroWords 0xffffffff) 1) = 0x100000000 := by decide

/-- Section 3.4, C4: the counter wraps silently. -/
theorem test_counter_wraps :
    Words.ctr (advanceCounter (Words.setCtr zeroWords 0xffffffffffffffff) 4) = 3 := by decide

/-! ### The commands, one step each -/

/-- The reset engine of build `c` with command words and data-in bytes offered by the host. -/
def offered (c : Config) (words : List Word) (bytes : List Byte) : State :=
  words.foldl (fun s w => s.hostIssue w) ((State.resetOf c).hostSend bytes)

/-- The engine of build `c` after `INIT ndr` with the zero key and nonce, with words and bytes offered. -/
def started (c : Config) (ndr : BitVec 8) (words : List Word) (bytes : List Byte) : State :=
  (offered c words bytes).loadCipherStream zeroWords ndr

/-- The same engine after one more byte of keystream has been consumed: OFFSET = 1. -/
def streaming (c : Config) (ndr : BitVec 8) (words : List Word) (bytes : List Byte) : State :=
  (started c ndr words bytes).setCipherStream
    (refillIfEmpty c ndr ⟨zeroWords, [], c.cap⟩ |> fun st => { st with offset := 1 })

/-- The engine after `APPLY 1` as its first command (section 3.5, A8): halted. -/
def haltedEngine (words : List Word) (bytes : List Byte) : State :=
  (offered ⟨.one, true⟩ words bytes).raiseError .notInitialized 0x00000102

/-- What a test looks at in a result. -/
def look {α : Type} (f : State → α) : Result → Option α
  | .next s => some (f s)
  | .fault _ => none
  | .refused _ => none

/-- Section 3.6, I1: INIT 10 with key 00..1f and nonce 00..07. -/
theorem test_init :
    look (fun s => (s.words.map Vector.toList, s.ndr, s.offset, s.statusWord, s.dataIn))
      (step (offered ⟨.four, true⟩ [0x00000a01]
        ((List.range 32 ++ List.range 8).map (BitVec.ofNat 8) ++ [0x5A]))) =
    some (some [0x61707865, 0x3320646e, 0x79622d32, 0x6b206574, 0x03020100, 0x07060504,
      0x0b0a0908, 0x0f0e0d0c, 0x13121110, 0x17161514, 0x1b1a1918, 0x1f1e1d1c, 0, 0, 0x03020100,
      0x07060504], 10, 256, 1, [0x5A]) := by decide

/-- Section 3.6, I3: INIT 0 raises ILLEGAL_ROUNDS and drains its 40 bytes. -/
theorem test_init_zero_rounds :
    look (fun s => (s.words, s.statusWord, s.errcmd, s.dataIn))
      (step (offered ⟨.one, true⟩ [0x00000001] (List.replicate 40 7))) =
    some (none, 0x00000032, 0x00000001, []) := by decide

/-- Section 3.5, A2 (B = 1): APPLY of 63 bytes ends on the boundary and refills at once. -/
theorem test_apply_refills_at_once :
    look (fun s => (s.dataOut.take 4, s.dataOut.length, s.offset, s.words.map Words.ctr))
      (step (streaming ⟨.one, true⟩ 10 [0x00003f02] (List.replicate 63 0))) =
    some ([0xb8, 0xe0, 0xad, 0xa0], 63, 0, some 2) := by decide

/-- Section 3.5, A8: APPLY 1 before any INIT. -/
theorem test_apply_before_init :
    look (fun s => (s.dataOut, s.statusWord, s.errcmd, s.dataIn))
      (step (offered ⟨.four, true⟩ [0x00000102] [0])) =
    some ([], 0x00000052, 0x00000102, []) := by decide

/-- Section 3.7, R3: RDREG CONFIG of a build with B = 4 and TEST_ACCESS. -/
theorem test_rdreg_config :
    look State.dataOut (step (offered ⟨.four, true⟩ [0x00001303] [])) =
      some [0x14, 0x00, 0x00, 0x00] := by decide

/-- Program PR5, steps 2 and 6: while halted RDREG STATUS is answered and RDREG S0 is dropped. -/
theorem test_rdreg_halted :
    look (fun s => (s.dataOut, s.errcmd)) (step (haltedEngine [0x00001203] [])) =
      some ([0x52, 0x00, 0x00, 0x00], 0x00000102) ∧
    look (fun s => (s.dataOut, s.errcmd)) (step (haltedEngine [0x00000003] [])) =
      some ([], 0x00000102) := by decide

/-- Section 3.7, R11. -/
theorem test_wrctr :
    look (fun s => (s.words.map Words.ctr, s.offset))
      (step (streaming ⟨.one, true⟩ 10 [0x00000004] [0xff, 0xff, 0xff, 0xff, 0, 0, 0, 0])) =
    some (some 0x00000000FFFFFFFF, 64) := by decide

/-- Section 3.7, R12: WRCTR without TEST_ACCESS. -/
theorem test_wrctr_absent :
    look (fun s => (s.statusWord, s.errcmd, s.dataIn))
      (step (started ⟨.one, false⟩ 10 [0x00000004] [1, 2, 3, 4, 5, 6, 7, 8])) =
    some (0x00000013, 0x00000004, [1, 2, 3, 4, 5, 6, 7, 8]) := by decide

/-- The next step after `withFetchWord` runs the word, here INIT 10 with 40 zero bytes. -/
theorem test_withFetchWord :
    look State.words (step (State.reset.withFetchWord 32 0x00000a01)) = some (some zeroWords) := by
  decide

/-- 70_reset_and_hazards.md R260: reset leaves the error and the keystream position. -/
theorem test_reset_clears_an_error :
    look (fun s => (s.statusWord, s.errcmd, s.offset)) (step (haltedEngine [] []).hostReset) =
      some (0, 0, 64) := by decide

/-- 70_reset_and_hazards.md R264: with 39 bytes of data-in INIT waits; with none accepted RDREG waits. -/
theorem test_stuck :
    step (offered ⟨.one, true⟩ [0x00000a01] (List.replicate 39 0)) = .fault .stuckDataIn ∧
    step ((offered ⟨.one, true⟩ [0x00001203] []).hostAccepts (some 3)) = .fault .stuckDataOut :=
  ⟨rfl, rfl⟩

end Sys2Proof.Tests
end

