-- ==== Sys2Proof/Tests/Witnesses.lean ====
section
/-! SUPPORT. For every statement with hypotheses, concrete states and operands that meet them, one theorem a
clause; `witness_<statement>` names the statement. -/

namespace Sys2Proof.Tests

open Sys2Proof.Machine

/-- Builds of both batch widths. -/
def build1 : Config := ⟨.one, true⟩
def build4 : Config := ⟨.four, true⟩
def buildLocked : Config := ⟨.four, false⟩

/-- The result is a next state. -/
def completes : Result → Bool
  | .next _ => true
  | .fault _ => false
  | .refused _ => false

theorem exists_next {r : Result} (h : completes r = true) : ∃ t, r = .next t := by
  cases r with
  | next t => exact ⟨t, rfl⟩
  | fault _ => cases h
  | refused _ => cases h

/-- The result is a next state of which `p` holds. -/
theorem exists_next_look {r : Result} (p : State → Bool) (h : look p r = some true) :
    ∃ t, r = .next t ∧ p t = true := by
  cases r with
  | next t => exact ⟨t, rfl, by simpa [look] using h⟩
  | fault _ => cases h
  | refused _ => cases h

/-- What a word decodes to rules out any other command. -/
theorem decode_ne {b : Bool} {w : Word} {i j : Instr} (h : decode b w = .ok i) (hij : i ≠ j) :
    decode b w ≠ .ok j := by
  intro h'
  exact hij (by simpa [h] using h')

/-! ### The invariant and stream positions -/

/-- A fresh stream of either width meets the invariant. -/
theorem started_inv (c : Config) (ndr : BitVec 8) (hn : ndr ≠ 0) :
    (started c ndr [] []).Inv where
  memory := rfl
  offset := Nat.le_refl _
  buffer := fun h => absurd h (Nat.lt_irrefl _)
  constants := by
    intro ws hws
    obtain rfl : zeroWords = ws := Option.some.inj hws
    exact ⟨rfl, rfl, rfl, rfl⟩
  rounds := hn
  status := ⟨rfl, rfl⟩

/-- A stream in the middle of its first buffer meets the invariant. -/
theorem streaming_inv : (streaming build1 1 [] [9]).Inv where
  memory := by decide
  offset := by decide
  buffer := fun _ => ⟨_, rfl, by decide⟩
  constants := by
    intro ws hws
    obtain rfl : advanceCounter zeroWords 1 = ws := Option.some.inj hws
    decide
  rounds := by decide
  status := by decide

theorem halted_inv : (haltedEngine [] []).Inv where
  memory := rfl
  offset := Nat.le_refl _
  buffer := fun h => absurd h (Nat.lt_irrefl _)
  constants := by intro ws hws; cases hws
  rounds := by decide
  status := by decide

theorem fresh_atPosition (c : Config) (words : List Word) (bytes : List Byte) :
    AtPosition (started c 1 words bytes) zeroWords 0 where
  fresh := fun _ => ⟨by cases words <;> rfl, by
    simp [started, State.loadCipherStream]⟩
  streaming := fun h => absurd h (by decide)

theorem streaming_atPosition : AtPosition (streaming build1 1 [] [9]) zeroWords 1 where
  fresh := fun h => absurd h (by decide)
  streaming := fun _ => ⟨by decide, by decide, by decide⟩

/-! ### Encoding and stepping -/

theorem witness_EncodeRestoresTheWord :
    decode true 0xffffff02 = .ok (.apply 0xffffff) ∧ decode true 0x00000004 = .ok .wrctr := by decide

theorem witness_StepRunsTheDecodedCommand :
    let s := offered buildLocked [0x00001f03, 0] []
    s.resetIn = false ∧ s.cmdIn = [0x00001f03, 0] ∧
      decode s.cfg.testAccess 0x00001f03 = .ok (.rdreg 0x1f) := by decide

theorem witness_WaitingEngineHoldsItsState :
    State.reset.resetIn = false ∧ State.reset.cmdIn = [] := by decide

theorem witness_ResetInputResetsTheEngine : (haltedEngine [] []).hostReset.resetIn = true := by decide

theorem witness_ResetEndsAStarvedCommand_starved :
    let s := (offered build1 [0x00000a01, 0x00001203] (List.replicate 39 0)).hostReset
    s.resetIn = true ∧ s.cmdIn = [0x00000a01, 0x00001203] ∧
      decode s.cfg.testAccess 0x00000a01 = .ok (.init 10) ∧ s.dataIn.length < dinLen (.init 10) := by
  decide

theorem witness_ResetEndsAStarvedCommand_rdreg :
    let s := ((offered build1 [0x00001103, 0x00001203] [7]).hostAccepts (some 3)).hostReset
    s.resetIn = true ∧ s.cmdIn = [0x00001103, 0x00001203] ∧
      decode s.cfg.testAccess 0x00001103 = .ok (.rdreg 0x11) ∧
      s.regValue (Reg.ofIndex 0x11) = .ok 10 ∧ s.accepts 4 = false :=
  ⟨rfl, rfl, rfl, rfl, rfl⟩

theorem witness_ResetEndsAStarvedCommand_apply :
    let s := ((streaming build1 1 [0x00000102] [9]).hostAccepts (some 0)).hostReset
    s.Inv ∧ s.resetIn = true ∧ s.cmdIn = [0x00000102] ∧
      decode s.cfg.testAccess 0x00000102 = .ok (.apply 1) ∧ s.halt = false ∧ s.initd = true ∧
      (1 : BitVec 24).toNat ≤ s.dataIn.length ∧ s.accepts (1 : BitVec 24).toNat = false :=
  ⟨⟨streaming_inv.memory, streaming_inv.offset, streaming_inv.buffer, streaming_inv.constants,
    streaming_inv.rounds, streaming_inv.status⟩, by decide⟩

theorem witness_ResetEndsAStarvedCommand_completes :
    let s := (offered build1 [0x00001203, 0x00000a01] [7]).hostReset
    s.resetIn = true ∧ s.cmdIn = [0x00001203, 0x00000a01] ∧
      ∃ u, runWord 0x00001203 { s with cmdIn := [0x00000a01] } = .next u :=
  ⟨rfl, rfl, exists_next (by decide)⟩

theorem witness_ResetEndsAStarvedCommand_idle :
    let s := (offered build1 [] [1]).hostReset
    s.resetIn = true ∧ s.cmdIn = [] := by decide

/-! ### The commands -/

/-- The 40 bytes of an INIT and one byte after them. -/
def initBytes : List Byte := List.replicate 32 3 ++ List.replicate 8 4 ++ [5]

theorem witness_InitLoadsACipherStream_halted :
    (haltedEngine [] initBytes).dataIn = List.replicate 32 3 ++ List.replicate 8 4 ++ [5] ∧
      (haltedEngine [] initBytes).halt = true := by decide

theorem witness_InitLoadsACipherStream_zero :
    (offered build1 [] initBytes).dataIn = List.replicate 32 3 ++ List.replicate 8 4 ++ [5] ∧
      (offered build1 [] initBytes).halt = false ∧ (0 : BitVec 8) = 0 := by decide

theorem witness_InitLoadsACipherStream_loads :
    (offered build4 [] initBytes).dataIn = List.replicate 32 3 ++ List.replicate 8 4 ++ [5] ∧
      (offered build4 [] initBytes).halt = false ∧ (1 : BitVec 8) ≠ 0 ∧ (255 : BitVec 8) ≠ 0 := by
  decide

theorem witness_RdregReadsEveryRegister_reserved :
    0x15 ≤ (0x15 : BitVec 5).toNat ∧ 0x15 ≤ (0x1f : BitVec 5).toNat := by decide

theorem witness_RdregReadsEveryRegister_locked :
    (0x0f : BitVec 5).toNat < 0x10 ∧ (started buildLocked 1 [] []).cfg.testAccess = false := by decide

theorem witness_RdregReadsEveryRegister_unset :
    (0x00 : BitVec 5).toNat < 0x10 ∧ State.reset.cfg.testAccess = true ∧ State.reset.words = none := by
  decide

theorem witness_RdregReadsEveryRegister_word :
    (0x0f : BitVec 5).toNat < 0x10 ∧ (started build1 1 [] []).cfg.testAccess = true ∧
      (started build1 1 [] []).words = some zeroWords ∧
      ((started build1 1 [] []).hostAccepts (some 4)).accepts 4 = true := by decide

theorem witness_RdregReadsEveryRegister_other :
    (0x10 : BitVec 5).toNat = 0x10 ∧ (0x11 : BitVec 5).toNat = 0x11 ∧
      (0x12 : BitVec 5).toNat = 0x12 ∧ (0x13 : BitVec 5).toNat = 0x13 ∧
      (0x14 : BitVec 5).toNat = 0x14 ∧ (haltedEngine [] []).accepts 4 = true := by decide

/-- Nine counter bytes, one more than WRCTR takes. -/
def counterBytes : List Byte := [1, 2, 3, 4, 5, 6, 7, 8, 9]

theorem witness_WrctrWritesTheCounter_halted :
    (haltedEngine [] counterBytes).cfg.testAccess = true ∧
      (haltedEngine [] counterBytes).dataIn = 1 :: 2 :: 3 :: 4 :: 5 :: 6 :: 7 :: 8 :: [9] ∧
      (haltedEngine [] counterBytes).halt = true := by decide

theorem witness_WrctrWritesTheCounter_unset :
    (offered build1 [] counterBytes).cfg.testAccess = true ∧
      (offered build1 [] counterBytes).dataIn = 1 :: 2 :: 3 :: 4 :: 5 :: 6 :: 7 :: 8 :: [9] ∧
      (offered build1 [] counterBytes).halt = false ∧
      (offered build1 [] counterBytes).words = none := by decide

theorem witness_WrctrWritesTheCounter_writes :
    (started build4 1 [] counterBytes).cfg.testAccess = true ∧
      (started build4 1 [] counterBytes).dataIn = 1 :: 2 :: 3 :: 4 :: 5 :: 6 :: 7 :: 8 :: [9] ∧
      (started build4 1 [] counterBytes).halt = false ∧
      (started build4 1 [] counterBytes).words = some zeroWords := by decide

theorem witness_ApplyRefusedKeepsTheStream_halted :
    (2 : BitVec 24).toNat ≤ (haltedEngine [] [7, 7]).dataIn.length ∧
      (haltedEngine [] [7, 7]).halt = true := by decide

theorem witness_ApplyRefusedKeepsTheStream_unset :
    (0 : BitVec 24).toNat ≤ State.reset.dataIn.length ∧ State.reset.halt = false ∧
      State.reset.words = none := by decide

theorem witness_ApplyOfNoBytesChangesNothing :
    (started build1 1 [] []).halt = false ∧ (started build1 1 [] []).initd = true ∧
      State.reset.halt = false ∧ State.reset.initd = false := by decide

theorem witness_ApplyCompletes :
    let s := streaming build1 1 [] [9]
    s.Inv ∧ s.halt = false ∧ s.initd = true ∧ (1 : BitVec 24).toNat ≤ s.dataIn.length ∧
      s.accepts (1 : BitVec 24).toNat = true :=
  ⟨streaming_inv, by decide⟩

theorem witness_ApplyCompletes_none :
    let s := started build4 1 [] []
    s.Inv ∧ s.halt = false ∧ s.initd = true ∧ (0 : BitVec 24).toNat ≤ s.dataIn.length ∧
      s.accepts (0 : BitVec 24).toNat = true :=
  ⟨started_inv build4 1 (by decide), by decide⟩

theorem witness_ApplyOutputsTheKeystreamXor_fresh :
    let s := started build4 1 [] [1, 2, 3]
    AtPosition s zeroWords 0 ∧ s.halt = false ∧ s.dataIn = [1, 2] ++ [3] ∧
      ([1, 2] : List Byte).length = (2 : BitVec 24).toNat ∧
      s.accepts (2 : BitVec 24).toNat = true :=
  ⟨fresh_atPosition build4 [] [1, 2, 3], by decide⟩

theorem witness_ApplyOutputsTheKeystreamXor_streaming :
    let s := streaming build1 1 [] [9]
    AtPosition s zeroWords 1 ∧ s.halt = false ∧ s.dataIn = [9] ++ [] ∧
      ([9] : List Byte).length = (1 : BitVec 24).toNat ∧
      s.accepts (1 : BitVec 24).toNat = true :=
  ⟨streaming_atPosition, by decide⟩

theorem witness_InitAndWrctrStartAStream_init :
    (offered build1 [] initBytes).halt = false ∧ (1 : BitVec 8) ≠ 0 ∧
      ∃ t, exec (.init 1) (offered build1 [] initBytes) = .next t :=
  ⟨by decide, by decide, exists_next (by decide)⟩

theorem witness_InitAndWrctrStartAStream_wrctr :
    (started build4 1 [] counterBytes).cfg.testAccess = true ∧
      (started build4 1 [] counterBytes).halt = false ∧
      (started build4 1 [] counterBytes).initd = true ∧
      ∃ t, exec .wrctr (started build4 1 [] counterBytes) = .next t :=
  ⟨by decide, by decide, by decide, exists_next (by decide)⟩

theorem witness_StarvedCommandsWait :
    (Instr.init 1).encodable buildLocked = true ∧
      (offered buildLocked [] (List.replicate 39 0)).dataIn.length < dinLen (.init 1) ∧
      (Instr.apply 2).encodable build1 = true ∧
      (offered build1 [] [0]).dataIn.length < dinLen (.apply 2) ∧
      Instr.wrctr.encodable build1 = true ∧
      (offered build1 [] (List.replicate 7 0)).dataIn.length < dinLen .wrctr := by decide

theorem witness_UnacceptedOutputWaits_rdreg :
    let s := State.reset.hostAccepts (some 3)
    s.regValue (Reg.ofIndex 0x11) = .ok 10 ∧ s.accepts 4 = false :=
  ⟨rfl, rfl⟩

theorem witness_UnacceptedOutputWaits_apply :
    let s := (streaming build1 1 [] [9]).hostAccepts (some 0)
    s.Inv ∧ s.halt = false ∧ s.initd = true ∧ (1 : BitVec 24).toNat ≤ s.dataIn.length ∧
      s.accepts (1 : BitVec 24).toNat = false :=
  ⟨⟨streaming_inv.memory, streaming_inv.offset, streaming_inv.buffer, streaming_inv.constants,
    streaming_inv.rounds, streaming_inv.status⟩, by decide⟩

/-! ### Frames -/

theorem witness_FrameOfInitRdregWrctr_any :
    (Instr.rdreg 0x12).encodable State.reset.cfg = true ∧
      (∀ len, Instr.rdreg 0x12 ≠ .apply len) ∧ ∃ t, exec (.rdreg 0x12) State.reset = .next t :=
  ⟨rfl, fun _ h => (nomatch h), exists_next (by decide)⟩

theorem witness_FrameOfInitRdregWrctr_init :
    (∃ t, exec (.init 0) (offered build1 [] initBytes) = .next t) ∧
      (∃ t, exec (.init 1) (offered build1 [] initBytes) = .next t) ∧
      ∃ t, exec (.init 1) (haltedEngine [] initBytes) = .next t :=
  ⟨exists_next (by decide), exists_next (by decide), exists_next (by decide)⟩

theorem witness_FrameOfInitRdregWrctr_rdreg :
    ∃ t, exec (.rdreg 0x10) State.reset = .next t ∧
      (t.dataOut != State.reset.dataOut) = true :=
  exists_next_look _ (by decide)

theorem witness_FrameOfInitRdregWrctr_dropped :
    (haltedEngine [] []).halt = true ∧ ∃ t, exec (.rdreg 0x1f) (haltedEngine [] []) = .next t :=
  ⟨rfl, exists_next (by decide)⟩

theorem witness_FrameOfInitRdregWrctr_wrctr :
    build1.testAccess = true ∧ (∃ t, exec .wrctr (started build1 1 [] counterBytes) = .next t) ∧
      (started build1 1 [] counterBytes).initd = true ∧
      ∃ t, exec .wrctr (haltedEngine [] counterBytes) = .next t :=
  ⟨rfl, exists_next (by decide), by decide, exists_next (by decide)⟩

theorem witness_FrameOfApply_refills :
    ∃ t, exec (.apply 1) (started build1 1 [] [9]) = .next t :=
  exists_next (by decide)

theorem witness_FrameOfApply_stays :
    (∃ t, exec (.apply 1) (streaming build1 1 [] [9]) = .next t) ∧
      (streaming build1 1 [] [9]).offset + (1 : BitVec 24).toNat
        < (streaming build1 1 [] [9]).cfg.cap :=
  ⟨exists_next (by decide), by decide⟩

/-! ### Errors -/

theorem witness_CauseFollowsThePriority (w : Word)
    (h : w ∈ [0x00000000, 0x00000011, 0x00000001, 0x00001503, 0x00000003, 0x00000002, 0x00000004,
      (0x00001203 : Word)]) :
    let s := offered build1 [w] (List.replicate 40 0)
    s.resetIn = false ∧ s.cmdIn = [w] ∧ s.halt = false ∧ s.cause = 0 ∧ ∃ t, step s = .next t := by
  refine ⟨rfl, rfl, rfl, rfl, ?_⟩
  simp only [List.mem_cons, List.not_mem_nil, or_false] at h
  rcases h with rfl | rfl | rfl | rfl | rfl | rfl | rfl | rfl <;> exact exists_next (by decide)

theorem witness_ErrorsArePrecise :
    let s := offered build1 [0x00000102] [9]
    s.resetIn = false ∧ s.cmdIn = [0x00000102] ∧ s.halt = false ∧
      ∃ t, step s = .next t ∧ t.halt = true :=
  ⟨rfl, rfl, rfl, exists_next_look _ (by decide)⟩

theorem witness_IllegalWordsRaiseTheirError :
    let s := offered buildLocked [0x00000004] []
    s.resetIn = false ∧ s.cmdIn = [0x00000004] ∧
      decode s.cfg.testAccess 0x00000004 = .error .illegalOpcode ∧
      decode s.cfg.testAccess 0x00000012 = .error .reservedField := by decide

theorem witness_HaltedEngineOnlyReads_reads :
    let s := haltedEngine [0x00001203] []
    s.resetIn = false ∧ s.cmdIn = [0x00001203] ∧ s.halt = true ∧
      dinLenOfWord s.cfg.testAccess 0x00001203 ≤ s.dataIn.length ∧
      decode s.cfg.testAccess 0x00001203 = .ok (.rdreg 0x12) ∧
      s.regValue (Reg.ofIndex 0x12) = .ok 0x52 ∧ s.accepts 4 = true :=
  ⟨rfl, rfl, rfl, by decide, rfl, rfl, rfl⟩

theorem witness_HaltedEngineOnlyReads_drops :
    let s := haltedEngine [0x00000a01] initBytes
    s.resetIn = false ∧ s.cmdIn = [0x00000a01] ∧ s.halt = true ∧
      dinLenOfWord s.cfg.testAccess 0x00000a01 ≤ s.dataIn.length ∧
      ∀ (reg : BitVec 5) (v : Word), decode s.cfg.testAccess 0x00000a01 = .ok (.rdreg reg) →
        s.regValue (Reg.ofIndex reg) ≠ .ok v :=
  ⟨rfl, rfl, rfl, by decide, fun _ _ h =>
    absurd h (decode_ne (i := .init 10) (by decide) (fun h => nomatch h))⟩

theorem witness_OnlyResetClearsAnError_command :
    let s := haltedEngine [0x00001203] []
    s.halt = true ∧ s.resetIn = false ∧ ∃ t, step s = .next t :=
  ⟨rfl, rfl, exists_next (by decide)⟩

theorem witness_OnlyResetClearsAnError_reset :
    let s := (haltedEngine [] []).hostReset
    s.halt = true ∧ s.resetIn = true ∧ ∃ t, step s = .next t :=
  ⟨rfl, rfl, exists_next (by decide)⟩

/-! ### Rules of the whole machine -/

theorem witness_DataLengthsPerCommand (w : Word)
    (h : w ∈ [0x00000a01, 0x00000202, 0x00001203, 0x00000004, (0x00000000 : Word)]) :
    let s := started build1 1 [w] (List.replicate 41 0)
    s.resetIn = false ∧ s.cmdIn = [w] ∧ ∃ t, step s = .next t := by
  refine ⟨rfl, rfl, ?_⟩
  simp only [List.mem_cons, List.not_mem_nil, or_false] at h
  rcases h with rfl | rfl | rfl | rfl | rfl <;> exact exists_next (by decide)

theorem witness_OnlyItsWritersChangeTheState_apply :
    let s := started build1 1 [0x00000102] [0]
    s.resetIn = false ∧ s.cmdIn = [0x00000102] ∧ (∃ t, step s = .next t) ∧
      (∀ ndr, decode s.cfg.testAccess 0x00000102 ≠ .ok (.init ndr)) ∧ s.words = some zeroWords :=
  ⟨rfl, rfl, exists_next (by decide),
    fun _ => decode_ne (i := .apply 1) (by decide) (fun h => nomatch h), rfl⟩

theorem witness_OnlyItsWritersChangeTheState_rdreg :
    let s := offered build1 [0x00001203] []
    s.resetIn = false ∧ s.cmdIn = [0x00001203] ∧ (∃ t, step s = .next t) ∧
      (∀ ndr, decode s.cfg.testAccess 0x00001203 ≠ .ok (.init ndr)) ∧
      (∀ len, decode s.cfg.testAccess 0x00001203 ≠ .ok (.apply len)) ∧
      decode s.cfg.testAccess 0x00001203 ≠ .ok .wrctr ∧ s.words = none :=
  ⟨rfl, rfl, exists_next (by decide),
    fun _ => decode_ne (i := .rdreg 0x12) (by decide) (fun h => nomatch h),
    fun _ => decode_ne (i := .rdreg 0x12) (by decide) (fun h => nomatch h),
    decode_ne (i := .rdreg 0x12) (by decide) (fun h => nomatch h), rfl⟩

theorem witness_ConfigIsHardwired : ∃ t, step (haltedEngine [] []).hostReset = .next t :=
  exists_next (by decide)

theorem witness_StepKeepsTheInvariant :
    (streaming build1 1 [] [9]).Inv ∧ ∃ t, step (streaming build1 1 [] [9]) = .next t :=
  ⟨streaming_inv, exists_next (by decide)⟩

theorem witness_InvariantRulesOutTheModelStops : (haltedEngine [] []).Inv ∧ (started build4 255 [] []).Inv :=
  ⟨halted_inv, started_inv build4 255 (by decide)⟩

/-! ### The Permutation Engine, the Batch Block Generator and streams -/

theorem witness_LaneRotationsAndTheirInverses :
    1 ≤ 1 ∧ 3 ≤ 3 ∧ (0 < 4 ∧ 3 < 4) := by decide

theorem witness_BatchWidthsGenerateTheSameBlocks :
    build1.batch = .one ∧ build4.batch = .four ∧ 3 < 4 ∧ 63 < 64 := by decide

theorem witness_ChunkingIsInvisible :
    let s := streaming build1 1 [] [9]
    s.Inv ∧ s.halt = false ∧ s.initd = true ∧
      (([0, 1, 0] : List (BitVec 24)).map BitVec.toNat).sum = (1 : BitVec 24).toNat ∧
      (1 : BitVec 24).toNat ≤ s.dataIn.length ∧ s.accepts (1 : BitVec 24).toNat = true :=
  ⟨streaming_inv, by decide⟩

theorem witness_ApplyIsSelfInverse_first :
    let s := offered build1 [] (List.replicate 32 3 ++ List.replicate 8 4 ++ [0xab, 0xcd] ++ [5])
    (1 : BitVec 8) ≠ 0 ∧ (List.replicate 32 (3 : Byte)).length = 32 ∧
      (List.replicate 8 (4 : Byte)).length = 8 ∧
      ([0xab, 0xcd] : List Byte).length = (2 : BitVec 24).toNat ∧ s.halt = false ∧
      s.accepts (2 : BitVec 24).toNat = true ∧
      s.dataIn = List.replicate 32 3 ++ List.replicate 8 4 ++ [0xab, 0xcd] ++ [5] := by decide

theorem witness_ApplyIsSelfInverse_second (cipher : List Byte) :
    let s := started build4 7 [] (List.replicate 32 3 ++ List.replicate 8 4 ++ cipher ++ [])
    s.halt = false ∧ s.accepts (2 : BitVec 24).toNat = true ∧
      s.dataIn = List.replicate 32 3 ++ List.replicate 8 4 ++ cipher ++ [] :=
  ⟨rfl, rfl, rfl⟩

/-- Fresh streams of both widths with the same ports are alike. -/
theorem started_alike (words : List Word) (bytes : List Byte) (h1 : words.length ≤ 1) :
    AlikeButForWidth (started build1 1 words bytes) (started build4 1 words bytes) := by
  have stream := fun ws : List Word =>
    (⟨zeroWords, 0, fresh_atPosition build1 ws bytes, fresh_atPosition build4 ws bytes⟩ :
      ∃ ws0 n, AtPosition (started build1 1 ws bytes) ws0 n ∧
        AtPosition (started build4 1 ws bytes) ws0 n)
  match words, h1 with
  | [], _ => exact ⟨rfl, rfl, rfl, rfl, rfl, rfl, rfl, rfl, rfl, rfl, rfl, rfl, .inr (stream [])⟩
  | [w], _ => exact ⟨rfl, rfl, rfl, rfl, rfl, rfl, rfl, rfl, rfl, rfl, rfl, rfl, .inr (stream [w])⟩

theorem witness_BatchWidthIsInvisible_command :
    AlikeButForWidth (started build1 1 [0x00001203] []) (started build4 1 [0x00001203] []) ∧
      ∀ (w : Word) (rest : List Word) (i : Instr),
        (started build1 1 [0x00001203] []).cmdIn = w :: rest →
        decode (started build1 1 [0x00001203] []).cfg.testAccess w = .ok i →
        readsBatchWidth i = false := by
  refine ⟨started_alike _ _ (by decide), fun w rest i hc hd => ?_⟩
  obtain rfl : (0x00001203 : Word) = w := (List.cons.inj hc).1
  obtain rfl : Instr.rdreg 0x12 = i := Except.ok.inj ((by decide : decode true 0x00001203 = _).symm.trans hd)
  decide

theorem witness_BatchWidthIsInvisible_reset :
    AlikeButForWidth (State.resetOf ⟨.one, false⟩).hostReset (State.resetOf ⟨.four, false⟩).hostReset ∧
      (State.resetOf ⟨.one, false⟩).hostReset.resetIn = true :=
  ⟨⟨rfl, rfl, rfl, rfl, rfl, rfl, rfl, rfl, rfl, rfl, rfl, rfl, .inl ⟨rfl, rfl⟩⟩, rfl⟩

theorem witness_BatchWidthIsInvisible_commands :
    AlikeButForWidth (started build1 1 [] counterBytes) (started build4 1 [] counterBytes) ∧
      ∀ i, i ∈ [Instr.wrctr, .apply 1, .rdreg 0x0b, .rdreg 0x12] →
        i.encodable (started build1 1 [] counterBytes).cfg = true ∧ readsBatchWidth i = false :=
  ⟨started_alike _ _ (by decide), by decide⟩

end Sys2Proof.Tests
end

section
/-! SUPPORT. Bounds on the build parameters, the counter advance as an update of the counter, and words that
agree outside the counter. -/

namespace Sys2Proof

theorem BatchWidth.blocks_pos (b : BatchWidth) : 0 < b.blocks := by
  cases b <;> decide

theorem BatchWidth.blocks_lt (b : BatchWidth) : b.blocks < 2 ^ 32 := by
  cases b <;> decide

theorem Config.cap_pos (c : Config) : 0 < c.cap :=
  Nat.mul_pos (by decide) c.batch.blocks_pos

end Sys2Proof

namespace Sys2Proof.Machine

/-- The counter as a number: the low word, and the high word times 2^32 (10_state.md R22). -/
theorem Words.toNat_ctr (ws : Words) :
    (Words.ctr ws).toNat = ws[12].toNat + 2 ^ 32 * ws[13].toNat := by
  have hlow : ws[12].toNat < 2 ^ 32 := ws[12].isLt
  rw [Words.ctr, BitVec.toNat_append, Nat.shiftLeft_eq, Nat.mul_comm,
    ← Nat.two_pow_add_eq_or_of_lt hlow, Nat.add_comm]

/-- The counter advance is `CTR <- CTR + n`: the carry bit of the 33-bit sum of the low word is what the
64-bit sum carries into the high word (41_batch_generator.md R147). -/
theorem advanceCounter_eq_setCtr (ws : Words) (n : Nat) (hn : n < 2 ^ 32) :
    advanceCounter ws n = Words.setCtr ws (Words.ctr ws + BitVec.ofNat 64 n) := by
  have hlow : ws[12].toNat < 2 ^ 32 := ws[12].isLt
  have hhigh : ws[13].toNat < 2 ^ 32 := ws[13].isLt
  have hctr := Words.toNat_ctr ws
  simp only [advanceCounter, Words.setCtr]
  congr 2
  · apply BitVec.eq_of_toNat_eq
    simp only [BitVec.extractLsb'_toNat, BitVec.toNat_add, BitVec.toNat_setWidth,
      BitVec.toNat_ofNat, hctr]
    omega
  · apply BitVec.eq_of_toNat_eq
    simp only [BitVec.extractLsb'_toNat, BitVec.toNat_add, BitVec.toNat_setWidth,
      BitVec.toNat_ofNat, Nat.shiftRight_eq_div_pow, hctr]
    omega

/-- Two State word files agree in every word but S[12] and S[13] (10_state.md R23). -/
def Words.SameButCtr (ws ws' : Words) : Prop :=
  ∀ (k : Nat) (hk : k < 16), k ≠ 12 → k ≠ 13 → ws'[k] = ws[k]

theorem Words.SameButCtr.refl (ws : Words) : Words.SameButCtr ws ws :=
  fun _ _ _ _ => rfl

theorem Words.SameButCtr.trans {x y z : Words} (hxy : Words.SameButCtr x y)
    (hyz : Words.SameButCtr y z) : Words.SameButCtr x z :=
  fun k hk h12 h13 => (hyz k hk h12 h13).trans (hxy k hk h12 h13)

theorem Words.sameButCtr_setCtr (ws : Words) (v : BitVec 64) :
    Words.SameButCtr ws (Words.setCtr ws v) :=
  fun k hk h12 h13 => Words.setCtr_other ws v k hk h12 h13

theorem Words.SameButCtr.hasConstants {ws ws' : Words} (h : Words.SameButCtr ws ws')
    (hc : hasConstants ws) : hasConstants ws' := by
  obtain ⟨h0, h1, h2, h3⟩ := hc
  exact ⟨(h 0 (by decide) (by decide) (by decide)).trans h0,
    (h 1 (by decide) (by decide) (by decide)).trans h1,
    (h 2 (by decide) (by decide) (by decide)).trans h2,
    (h 3 (by decide) (by decide) (by decide)).trans h3⟩

end Sys2Proof.Machine
end

section
/-! SUPPORT. GENERATE and the loop of APPLY: what they leave, and that the loop ends. -/

namespace Sys2Proof.Machine

theorem generate_words (c : Config) (ndr : BitVec 8) (st : CipherStream) :
    (generate c ndr st).words =
      Words.setCtr st.words (Words.ctr st.words + BitVec.ofNat 64 c.batch.blocks) :=
  advanceCounter_eq_setCtr st.words c.batch.blocks c.batch.blocks_lt

/-- The buffer after GENERATE: the batch of the old counter below CAP, and its old bytes from CAP up
(41_batch_generator.md R146). -/
theorem read_generate (c : Config) (ndr : BitVec 8) (st : CipherStream) (a : Nat) :
    Memory.read (generate c ndr st).ksb a =
      if a < c.cap then some (keystream st.words ndr a) else Memory.read st.ksb a :=
  read_writeBlocks st.words ndr st.ksb c.batch.blocks a

theorem refillIfEmpty_sameButCtr (c : Config) (ndr : BitVec 8) (st : CipherStream) :
    Words.SameButCtr st.words (refillIfEmpty c ndr st).words := by
  by_cases h : st.offset = c.cap
  · rw [refillIfEmpty_of_eq c ndr st h]
    exact generate_words c ndr st ▸ Words.sameButCtr_setCtr _ _
  · rw [refillIfEmpty_of_ne c ndr st h]
    exact Words.SameButCtr.refl _

theorem read_refillIfEmpty_of_cap_le (c : Config) (ndr : BitVec 8) (st : CipherStream) (a : Nat)
    (ha : c.cap ≤ a) : Memory.read (refillIfEmpty c ndr st).ksb a = Memory.read st.ksb a := by
  by_cases h : st.offset = c.cap
  · rw [refillIfEmpty_of_eq c ndr st h]
    exact (read_generate c ndr st a).trans (if_neg (by omega))
  · rw [refillIfEmpty_of_ne c ndr st h]

/-- A refill leaves OFFSET below CAP (10_state.md R28). -/
theorem refillIfEmpty_offset_lt (c : Config) (ndr : BitVec 8) (st : CipherStream)
    (h : st.offset ≤ c.cap) : (refillIfEmpty c ndr st).offset < c.cap := by
  by_cases he : st.offset = c.cap
  · rw [refillIfEmpty_of_eq c ndr st he]
    exact c.cap_pos
  · rw [refillIfEmpty_of_ne c ndr st he]
    omega

/-- The State before the counter advance of the last GENERATE. -/
def CipherStream.batchWords (c : Config) (st : CipherStream) : Words :=
  Words.setCtr st.words (Words.ctr st.words - BitVec.ofNat 64 c.batch.blocks)

/-- GENERATE leaves a State whose batch is that of the State before it. -/
theorem batchWords_generate (c : Config) (ndr : BitVec 8) (st : CipherStream) :
    (generate c ndr st).batchWords c = st.words := by
  rw [CipherStream.batchWords, generate_words, Words.ctr_setCtr, BitVec.add_sub_cancel,
    Words.setCtr_setCtr, Words.setCtr_ctr]

/-- The batch of keystream the counter has just passed stands in the buffer: what `State.Inv.buffer` says
where bytes of it are still to be consumed. -/
def CipherStream.Buffered (c : Config) (ndr : BitVec 8) (st : CipherStream) : Prop :=
  ∀ j, j < c.cap → Memory.read st.ksb j = some (keystream (st.batchWords c) ndr j)

/-- GENERATE fills the buffer with the batch its counter advance passes. -/
theorem generate_buffered (c : Config) (ndr : BitVec 8) (st : CipherStream) :
    (generate c ndr st).Buffered c ndr := by
  intro j hj
  rw [read_generate, if_pos hj, batchWords_generate]

/-- The part of `State.Inv` that APPLY's loop keeps. -/
structure CipherStream.Inv (c : Config) (ndr : BitVec 8) (st : CipherStream) : Prop where
  memory : Memory.wf c.cap st.ksb = true
  offset : st.offset ≤ c.cap
  buffer : st.offset < c.cap → st.Buffered c ndr

/-- Consuming `n` buffered bytes and refilling the buffer where it is then empty keeps the invariant. -/
theorem CipherStream.Inv.consume {c : Config} {ndr : BitVec 8} {st : CipherStream}
    (h : st.Inv c ndr) (n : Nat) (hn : n ≤ c.cap - st.offset) :
    (refillIfEmpty c ndr { st with offset := st.offset + n }).Inv c ndr where
  memory := refillIfEmpty_wf c ndr _ h.memory
  offset := Nat.le_of_lt (refillIfEmpty_offset_lt c ndr _ (by have := h.offset; simp; omega))
  buffer := fun _ => by
    by_cases he : st.offset + n = c.cap
    · rw [refillIfEmpty_of_eq c ndr _ he]
      exact generate_buffered c ndr { st with offset := st.offset + n }
    · rw [refillIfEmpty_of_ne c ndr _ he]
      exact h.buffer (by have := h.offset; omega)

@[simp] theorem keystreamFrom_length (ws0 : Words) (ndr : BitVec 8) (n len : Nat) :
    (keystreamFrom ws0 ndr n len).length = len := by
  simp [keystreamFrom]

theorem keystreamFrom_getElem? (ws0 : Words) (ndr : BitVec 8) (n len k : Nat) (hk : k < len) :
    (keystreamFrom ws0 ndr n len)[k]? = some (keystream ws0 ndr (n + k)) := by
  simp [keystreamFrom, hk]

/-- The bytes of the buffer that are still to be consumed read as their batch's keystream. -/
theorem CipherStream.Inv.readBytes {c : Config} {ndr : BitVec 8} {st : CipherStream}
    (h : st.Inv c ndr) (n : Nat) (hn : n ≤ c.cap - st.offset) :
    st.ksb.readBytes st.offset n = some (keystreamFrom (st.batchWords c) ndr st.offset n) := by
  refine Memory.readBytes_eq _ _ _ _ (keystreamFrom_length ..) fun k hk => ?_
  rw [h.buffer (by omega) (st.offset + k) (by omega), keystreamFrom_getElem? _ _ _ _ _ hk]

/-- What APPLY's loop leaves of the input `left`, the output `out` so far and the CipherStream `st`. -/
structure LoopAnswer (c : Config) (ndr : BitVec 8) (left out : List Byte) (st : CipherStream)
    (out' : List Byte) (st' : CipherStream) : Prop where
  length : out'.length = out.length + left.length
  inv : st'.Inv c ndr
  offset_lt : left ≠ [] ∨ st.offset < c.cap → st'.offset < c.cap

theorem LoopAnswer.nil {c : Config} {ndr : BitVec 8} {st : CipherStream} (h : st.Inv c ndr)
    (out : List Byte) : LoopAnswer c ndr [] out st out st :=
  ⟨rfl, h, fun hlt => hlt.resolve_left fun hne => hne rfl⟩

/-- The loop of APPLY ends within its bound: an iteration consumes a byte at least, but for the one that
starts with an empty buffer, after which the buffer is full (42_streaming_xor.md R171). -/
theorem applyLoop_ends (c : Config) (ndr : BitVec 8) (fuel : Nat) (left out : List Byte)
    (st : CipherStream) (hinv : st.Inv c ndr)
    (hfuel : left.length + (if st.offset = c.cap then 1 else 0) ≤ fuel) :
    ∃ out' st', applyLoop c ndr fuel left out st = .ok (out', st') ∧
      LoopAnswer c ndr left out st out' st' := by
  induction fuel generalizing left out st with
  | zero =>
    obtain rfl : left = [] := List.length_eq_zero_iff.mp (by omega)
    exact ⟨out, st, applyLoop_nil .., .nil hinv out⟩
  | succ fuel ih =>
    by_cases hleft : left = []
    · subst hleft
      exact ⟨out, st, applyLoop_nil .., .nil hinv out⟩
    · have hpos : 0 < left.length := List.length_pos_iff.mpr hleft
      have hle := hinv.offset
      generalize hn : min (c.cap - st.offset) left.length = n
      have hks := hinv.readBytes n (by omega)
      rw [applyLoop_iteration c ndr fuel left out _ st hleft (hn ▸ hks), hn]
      have hlt : (refillIfEmpty c ndr { st with offset := st.offset + n }).offset < c.cap :=
        refillIfEmpty_offset_lt c ndr _ (by simp; omega)
      have hrest : (left.drop n).length ≤ fuel := by
        rw [List.length_drop]
        split at hfuel <;> omega
      obtain ⟨out', st', hloop, hans⟩ := ih (left.drop n) _ _ (hinv.consume n (by omega))
        (by rw [if_neg (by omega)]; exact hrest)
      refine ⟨out', st', hloop, ?_, hans.inv, fun _ => hans.offset_lt (.inr hlt)⟩
      have hlength := hans.length
      simp only [List.length_append, xorBytes_length, keystreamFrom_length, List.length_take,
        List.length_drop] at hlength
      omega

/-- What APPLY's loop never changes: the State words but the counter's two, and KSB from CAP up (10_state.md
R23, R25). -/
structure CipherStream.SameFixedParts (c : Config) (st st' : CipherStream) : Prop where
  words : Words.SameButCtr st.words st'.words
  ksb : ∀ a, c.cap ≤ a → Memory.read st'.ksb a = Memory.read st.ksb a

theorem applyLoop_sameFixedParts (c : Config) (ndr : BitVec 8) (fuel : Nat)
    (left out out' : List Byte) (st st' : CipherStream)
    (h : applyLoop c ndr fuel left out st = .ok (out', st')) :
    CipherStream.SameFixedParts c st st' := by
  refine applyLoop_induction c ndr (fun _ _ x => CipherStream.SameFixedParts c st x) ?_
    fuel left out out' st st' ⟨Words.SameButCtr.refl _, fun _ _ => rfl⟩ h
  rintro left out x ks - ⟨hwords, hksb⟩ -
  exact ⟨hwords.trans (refillIfEmpty_sameButCtr c ndr _),
    fun a ha => (read_refillIfEmpty_of_cap_le c ndr _ a ha).trans (hksb a ha)⟩

/-- Where the input does not reach the end of the buffer nothing is refilled. -/
theorem applyLoop_no_refill (c : Config) (ndr : BitVec 8) (fuel : Nat) (left out out' : List Byte)
    (st st' : CipherStream) (hfit : st.offset + left.length < c.cap)
    (h : applyLoop c ndr fuel left out st = .ok (out', st')) :
    st'.words = st.words ∧ st'.ksb = st.ksb := by
  refine (applyLoop_induction c ndr
    (fun l _ x => x.offset + l.length < c.cap ∧ x.words = st.words ∧ x.ksb = st.ksb)
    ?_ fuel left out out' st st' ⟨hfit, rfl, rfl⟩ h).2
  rintro left out x ks - ⟨hx, hwords, hksb⟩ -
  rw [refillIfEmpty_of_ne c ndr _ (by simp; omega)]
  exact ⟨by simp; omega, hwords, hksb⟩

end Sys2Proof.Machine
end

section
/-! SUPPORT. The invariant: kept by each update of the state, and what APPLY does from it. -/

namespace Sys2Proof.Machine

/-- The invariant does not speak of the ports. -/
theorem State.Inv.withPorts {s : State} (h : s.Inv) (resetIn : Bool) (cmdIn : List Word)
    (dataIn dataOut : List Byte) (outRoom : Option Nat) :
    State.Inv { s with resetIn, cmdIn, dataIn, dataOut, outRoom } :=
  ⟨h.memory, h.offset, h.buffer, h.constants, h.rounds, h.status⟩

theorem State.Inv.dropDataIn {s : State} (h : s.Inv) (n : Nat) :
    State.Inv { s with dataIn := s.dataIn.drop n } :=
  h.withPorts ..

theorem State.Inv.sent {s : State} (h : s.Inv) (bytes : List Byte) : (s.sent bytes).Inv :=
  h.withPorts ..

/-- The codes of 60_exceptions.md R221 are 1 to 5. -/
theorem Cause.code_range (c : Cause) : 1 ≤ c.code.toNat ∧ c.code.toNat ≤ 5 := by
  cases c <;> decide

theorem State.Inv.raiseError {s : State} (h : s.Inv) (c : Cause) (w : Word) :
    (s.raiseError c w).Inv :=
  ⟨h.memory, h.offset, h.buffer, h.constants, h.rounds, c.code_range⟩

theorem State.Inv.refuseCommand {s : State} (h : s.Inv) (c : Cause) (w : Word) :
    (s.refuseCommand c w).Inv := by
  unfold State.refuseCommand
  split
  · exact h
  · exact h.raiseError c w

theorem hasConstants_initialWords (key nonce : List Byte) : hasConstants (initialWords key nonce) :=
  ⟨rfl, rfl, rfl, rfl⟩

theorem State.Inv.loadCipherStream {s : State} (h : s.Inv) (key nonce : List Byte) (ndr : BitVec 8)
    (hndr : ndr ≠ 0) : (s.loadCipherStream (initialWords key nonce) ndr).Inv where
  memory := h.memory
  offset := Nat.le_refl _
  buffer := fun hlt => absurd hlt (Nat.lt_irrefl _)
  constants := by
    rintro ws ⟨⟩
    exact hasConstants_initialWords key nonce
  rounds := hndr
  status := h.status

/-- Where S holds values, the invariant's clause on NDR is that it is not 0. -/
theorem State.Inv.ndr_ne_zero {s : State} (h : s.Inv) {ws : Words} (hws : s.words = some ws) :
    s.ndr ≠ 0 := by
  simpa [State.initd, hws] using h.rounds

theorem State.Inv.writeCounter {s : State} (h : s.Inv) {ws : Words} (hws : s.words = some ws)
    (v : BitVec 64) : (s.writeCounter ws v).Inv where
  memory := h.memory
  offset := Nat.le_refl _
  buffer := fun hlt => absurd hlt (Nat.lt_irrefl _)
  constants := by
    rintro ws' ⟨⟩
    exact (Words.sameButCtr_setCtr ws v).hasConstants (h.constants ws hws)
  rounds := h.ndr_ne_zero hws
  status := h.status

theorem State.Inv.cipherStream {s : State} (h : s.Inv) {ws : Words} (hws : s.words = some ws) :
    CipherStream.Inv s.cfg s.ndr ⟨ws, s.ksb, s.offset⟩ where
  memory := h.memory
  offset := h.offset
  buffer := fun hlt => by
    obtain ⟨ws', hws', hread⟩ := h.buffer hlt
    obtain rfl : ws = ws' := Option.some.inj (hws.symm.trans hws')
    exact hread

theorem State.Inv.setCipherStream {s : State} (h : s.Inv) {ws : Words} (hws : s.words = some ws)
    {st : CipherStream} (hst : st.Inv s.cfg s.ndr) (hsame : Words.SameButCtr ws st.words) :
    (s.setCipherStream st).Inv where
  memory := hst.memory
  offset := hst.offset
  buffer := fun hlt => ⟨st.words, rfl, hst.buffer hlt⟩
  constants := by
    rintro ws' ⟨⟩
    exact hsame.hasConstants (h.constants ws hws)
  rounds := h.ndr_ne_zero hws
  status := h.status

theorem State.inv_resetOf (c : Config) : (State.resetOf c).Inv where
  memory := Memory.wf_nil c.cap
  offset := Nat.le_refl _
  buffer := fun hlt => absurd hlt (Nat.lt_irrefl _)
  constants := fun _ hws => nomatch hws
  rounds := rfl
  status := ⟨rfl, rfl⟩

theorem State.inv_takeReset (s : State) : s.takeReset.Inv :=
  (State.inv_resetOf s.cfg).withPorts ..

theorem State.words_isSome_of_initd {s : State} (h : s.initd = true) : ∃ ws, s.words = some ws :=
  Option.isSome_iff_exists.mp h

/-- What a running APPLY of `len` bytes makes of the CipherStream of the words `ws`: the output `out` and the
CipherStream `st`. -/
structure ApplyAnswer (s : State) (ws : Words) (len : Nat) (out : List Byte) (st : CipherStream) :
    Prop where
  length : out.length = len
  inv : st.Inv s.cfg s.ndr
  sameButCtr : Words.SameButCtr ws st.words
  offset_lt : 1 ≤ len → st.offset < s.cfg.cap
  offset_eq : len = 0 → st.offset = s.offset

/-- From the invariant the loop of APPLY ends on its LEN bytes (42_streaming_xor.md R171). -/
theorem State.Inv.applyLoop_ends {s : State} (h : s.Inv) {ws : Words} (hws : s.words = some ws) {len : Nat}
    (hlen : len ≤ s.dataIn.length) :
    ∃ out st, applyLoop s.cfg s.ndr (len + 1) (s.dataIn.take len) [] ⟨ws, s.ksb, s.offset⟩ =
      .ok (out, st) ∧ ApplyAnswer s ws len out st := by
  have htake : (s.dataIn.take len).length = len := by simpa using hlen
  obtain ⟨out, st, hloop, hans⟩ := Machine.applyLoop_ends s.cfg s.ndr (len + 1) (s.dataIn.take len) []
    ⟨ws, s.ksb, s.offset⟩ (h.cipherStream hws) (by rw [htake]; split <;> omega)
  exact ⟨out, st, hloop, {
    length := by simpa [htake] using hans.length
    inv := hans.inv
    sameButCtr := (applyLoop_sameFixedParts _ _ _ _ _ _ _ _ hloop).words
    offset_lt := fun hpos => hans.offset_lt (.inl (List.ne_nil_of_length_pos (by omega)))
    offset_eq := fun hzero => by
      rw [hzero, List.take_zero, applyLoop_nil] at hloop
      cases hloop
      rfl }⟩

/-- From the invariant a running APPLY sends what its loop makes, so only the host's side can stop it. -/
theorem execApply_running {s : State} (h : s.Inv) (hrun : s.halt = false) {ws : Words}
    (hws : s.words = some ws) {len : BitVec 24} (hlen : len.toNat ≤ s.dataIn.length) :
    ∃ out st, ApplyAnswer s ws len.toNat out st ∧
      exec (.apply len) s = doutWrite out
        (State.setCipherStream st { s with dataIn := s.dataIn.drop len.toNat }) := by
  obtain ⟨out, st, hloop, hans⟩ := h.applyLoop_ends hws hlen
  refine ⟨out, st, hans, ?_⟩
  change execApply len s = _
  rw [execApply, withDataIn_of_le _ _ _ hlen]
  simp only [hrun, hws, hloop, Bool.false_eq_true, if_false]

end Sys2Proof.Machine
end

section
/-! SUPPORT. What a step and an accepted word run. -/

namespace Sys2Proof.Machine

/-- An accepted word runs the command it decodes to, or is refused as no command. -/
theorem runWord_cases (w : Word) (s : State) :
    (∃ i, decode s.cfg.testAccess w = .ok i ∧ runWord w s = exec i s) ∨
    (∃ e, decode s.cfg.testAccess w = .error e ∧
      runWord w s = .next (s.refuseCommand (Cause.ofDecodeError e) w)) := by
  cases hd : decode s.cfg.testAccess w with
  | ok i => exact .inl ⟨i, rfl, runWord_ok w s i hd⟩
  | error e => exact .inr ⟨e, rfl, runWord_error w s e hd⟩

theorem step_of_cmdIn {s : State} {w : Word} {rest : List Word} (hr : s.resetIn = false)
    (hc : s.cmdIn = w :: rest) : step s = runWord w { s with cmdIn := rest } := by
  simp [step, hr, State.takeCommand_cons s w rest hc]

end Sys2Proof.Machine
end

section
/-! PROOFS. The invariant over a step (O31, O30), and APPLY from it (O15). -/

namespace Sys2Proof.Machine

theorem exec_keeps_inv (i : Instr) {s t : State} (h : s.Inv) (hexec : exec i s = .next t) : t.Inv := by
  cases i with
  | init ndr =>
    obtain ⟨-, ⟨-, rfl⟩ | ⟨-, -, rfl⟩ | ⟨-, hndr, rfl⟩⟩ := execInit_next ndr s t hexec
    · exact h.dropDataIn _
    · exact (h.dropDataIn _).raiseError ..
    · exact (h.dropDataIn _).loadCipherStream _ _ ndr hndr
  | apply len =>
    obtain ⟨hlen, ⟨-, rfl⟩ | ⟨-, -, rfl⟩ | ⟨hrun, ws, -, -, hws, -⟩⟩ := execApply_next len s t hexec
    · exact h.dropDataIn _
    · exact (h.dropDataIn _).raiseError ..
    · obtain ⟨out, st, hans, happly⟩ := execApply_running h hrun hws hlen
      obtain ⟨-, rfl⟩ := doutWrite_next _ _ _ (happly.symm.trans hexec)
      exact ((h.dropDataIn _).setCipherStream hws hans.inv hans.sameButCtr).sent out
  | rdreg reg =>
    obtain ⟨v, -, -, rfl⟩ | ⟨c, -, rfl⟩ := execRdreg_next reg s t hexec
    · exact h.sent _
    · exact h.refuseCommand ..
  | wrctr =>
    obtain ⟨-, ⟨-, rfl⟩ | ⟨-, -, rfl⟩ | ⟨-, ws, hws, rfl⟩⟩ := execWrctr_next s t hexec
    · exact h.dropDataIn _
    · exact (h.dropDataIn _).raiseError ..
    · exact (h.dropDataIn _).writeCounter hws _

theorem runWord_keeps_inv (w : Word) {s t : State} (h : s.Inv) (hrun : runWord w s = .next t) :
    t.Inv := by
  obtain ⟨i, -, hexec⟩ | ⟨e, -, herr⟩ := runWord_cases w s
  · exact exec_keeps_inv i h (hexec ▸ hrun)
  · cases herr.symm.trans hrun
    exact h.refuseCommand ..

/-- Settles O31: reset gives the invariant afresh, waiting holds the state, and each command's updates keep
the invariant. -/
theorem stepKeepsTheInvariant : Obligations.StepKeepsTheInvariant := by
  intro s t h hstep
  obtain ⟨-, hs⟩ | ⟨-, -, hs⟩ | ⟨-, w, rest, -, hs⟩ := step_cases s
  · cases hs.symm.trans hstep
    exact s.inv_takeReset
  · cases hs.symm.trans hstep
    exact h
  · exact runWord_keeps_inv w (h.withPorts ..) (hs.symm.trans hstep)

/-- Settles O30: OFFSET is CAP, so no byte of the empty buffer is to be consumed. -/
theorem resetMeetsTheInvariant : Obligations.ResetMeetsTheInvariant :=
  State.inv_resetOf

/-- Settles O15, by the end of APPLY's loop within its bound. -/
theorem applyCompletes : Obligations.ApplyCompletes := by
  intro s len h hrun hinitd hlen hroom
  obtain ⟨ws, hws⟩ := State.words_isSome_of_initd hinitd
  obtain ⟨out, st, hans, happly⟩ := execApply_running h hrun hws hlen
  have hsent := doutWrite_of_accepts out
    (State.setCipherStream st { s with dataIn := s.dataIn.drop len.toNat }) (hans.length ▸ hroom)
  exact ⟨_, happly.trans hsent, rfl, by simp [hans.length], hans.inv.offset, hans.offset_lt,
    hans.offset_eq⟩

end Sys2Proof.Machine
end

section
/-! SUPPORT. What every command leaves unchanged. -/

namespace Sys2Proof.Machine

/-- No command touches the build, the command port or the reset input. -/
theorem exec_keeps_build_and_port (i : Instr) {s t : State} (h : exec i s = .next t) :
    t.cfg = s.cfg ∧ t.cmdIn = s.cmdIn ∧ t.resetIn = s.resetIn := by
  cases i with
  | init ndr =>
    obtain ⟨-, ⟨-, rfl⟩ | ⟨-, -, rfl⟩ | ⟨-, -, rfl⟩⟩ := execInit_next ndr s t h <;> simp
  | apply len =>
    obtain ⟨-, ⟨-, rfl⟩ | ⟨-, -, rfl⟩ | ⟨-, _, _, _, -, -, -, rfl⟩⟩ := execApply_next len s t h <;>
      simp
  | rdreg reg =>
    obtain ⟨v, -, -, rfl⟩ | ⟨c, -, rfl⟩ := execRdreg_next reg s t h
    · simp
    · obtain ⟨hcfg, -, -, -, -, hreset, hcmd, -⟩ := refuseCommand_frame c (encode (.rdreg reg)) s
      exact ⟨hcfg, hcmd, hreset⟩
  | wrctr =>
    obtain ⟨-, ⟨-, rfl⟩ | ⟨-, -, rfl⟩ | ⟨-, _, -, rfl⟩⟩ := execWrctr_next s t h <;> simp

/-- INIT, RDREG and WRCTR store nothing in KSB (10_state.md R25). -/
theorem exec_keeps_ksb (i : Instr) (hi : ∀ len, i ≠ .apply len) {s t : State}
    (h : exec i s = .next t) : t.ksb = s.ksb := by
  cases i with
  | init ndr =>
    obtain ⟨-, ⟨-, rfl⟩ | ⟨-, -, rfl⟩ | ⟨-, -, rfl⟩⟩ := execInit_next ndr s t h <;> simp
  | apply len => exact absurd rfl (hi len)
  | rdreg reg =>
    obtain ⟨v, -, -, rfl⟩ | ⟨c, -, rfl⟩ := execRdreg_next reg s t h
    · simp
    · obtain ⟨-, -, hksb, -⟩ := refuseCommand_frame c (encode (.rdreg reg)) s
      exact hksb
  | wrctr =>
    obtain ⟨-, ⟨-, rfl⟩ | ⟨-, -, rfl⟩ | ⟨-, _, -, rfl⟩⟩ := execWrctr_next s t h <;> simp

theorem execInit_frame {ndr : BitVec 8} {s t : State} (h : exec (.init ndr) s = .next t) :
    t.dataOut = s.dataOut ∧ t.outRoom = s.outRoom ∧
    (s.halt = true ∨ ndr ≠ 0 → t.halt = s.halt ∧ t.cause = s.cause ∧ t.errcmd = s.errcmd) ∧
    (s.halt = true ∨ ndr = 0 → t.words = s.words ∧ t.offset = s.offset ∧ t.ndr = s.ndr) := by
  obtain ⟨-, ⟨-, rfl⟩ | ⟨hrun, hzero, rfl⟩ | ⟨hrun, hndr, rfl⟩⟩ := execInit_next ndr s t h
  · simp
  · simp [hrun, hzero]
  · simpa [hrun] using fun hzero => absurd hzero hndr

theorem execRdreg_frame {reg : BitVec 5} {s t : State} (h : exec (.rdreg reg) s = .next t) :
    t.words = s.words ∧ t.offset = s.offset ∧ t.ndr = s.ndr ∧ t.dataIn = s.dataIn ∧
    (s.halt = true ∨ t.dataOut ≠ s.dataOut →
      t.halt = s.halt ∧ t.cause = s.cause ∧ t.errcmd = s.errcmd) := by
  obtain ⟨v, -, -, rfl⟩ | ⟨c, -, rfl⟩ := execRdreg_next reg s t h
  · simp
  · obtain ⟨-, hwords, -, hoffset, hndr, -, -, hdin, hdout, -⟩ :=
      refuseCommand_frame c (encode (.rdreg reg)) s
    refine ⟨hwords, hoffset, hndr, hdin, ?_⟩
    rintro (hhalt | hsent)
    · rw [refuseCommand_halted _ _ _ hhalt]
      exact ⟨rfl, rfl, rfl⟩
    · exact absurd hdout hsent

theorem execWrctr_frame {s t : State} (h : exec .wrctr s = .next t) :
    t.ndr = s.ndr ∧ t.dataOut = s.dataOut ∧ t.outRoom = s.outRoom ∧
    (s.halt = true ∨ s.initd = true →
      t.halt = s.halt ∧ t.cause = s.cause ∧ t.errcmd = s.errcmd) ∧
    (s.halt = true ∨ s.initd = false → t.words = s.words ∧ t.offset = s.offset) := by
  obtain ⟨-, ⟨-, rfl⟩ | ⟨hrun, hws, rfl⟩ | ⟨hrun, ws, hws, rfl⟩⟩ := execWrctr_next s t h
  · simp
  · simp [State.initd, hrun, hws]
  · simp [State.initd, hrun, hws]

theorem execApply_frame {len : BitVec 24} {s t : State} (h : exec (.apply len) s = .next t) :
    t.ndr = s.ndr ∧ (s.halt = true ∨ s.initd = true →
      t.halt = s.halt ∧ t.cause = s.cause ∧ t.errcmd = s.errcmd) := by
  obtain ⟨-, ⟨-, rfl⟩ | ⟨hrun, hws, rfl⟩ | ⟨-, _, _, _, -, -, -, rfl⟩⟩ := execApply_next len s t h
  · simp
  · simp [State.initd, hrun, hws]
  · simp

/-- From `s` to `t` unset State words stay unset, and of set ones only S[12] and S[13] may change: what every
command but INIT does (10_state.md R23). -/
structure State.KeepsFixedWords (s t : State) : Prop where
  unset : s.words = none → t.words = none
  set : ∀ ws, s.words = some ws → ∃ ws', t.words = some ws' ∧ Words.SameButCtr ws ws'

theorem State.KeepsFixedWords.of_eq {s t : State} (h : t.words = s.words) : s.KeepsFixedWords t :=
  ⟨h.trans, fun ws hws => ⟨ws, h.trans hws, .refl ws⟩⟩

theorem State.KeepsFixedWords.of_some {s t : State} {ws ws' : Words} (hs : s.words = some ws)
    (ht : t.words = some ws') (h : Words.SameButCtr ws ws') : s.KeepsFixedWords t where
  unset := fun hnone => by simp [hs] at hnone
  set := fun ws₁ hws₁ => by
    obtain rfl : ws = ws₁ := Option.some.inj (hs.symm.trans hws₁)
    exact ⟨ws', ht, h⟩

theorem State.KeepsFixedWords.initd {s t : State} (h : s.KeepsFixedWords t) : t.initd = s.initd := by
  cases hs : s.words with
  | none => simp [State.initd, hs, h.unset hs]
  | some ws =>
    obtain ⟨ws', ht, -⟩ := h.set ws hs
    simp [State.initd, hs, ht]

theorem execApply_keepsFixedWords (len : BitVec 24) {s t : State}
    (h : exec (.apply len) s = .next t) : s.KeepsFixedWords t := by
  obtain ⟨-, ⟨-, rfl⟩ | ⟨-, -, rfl⟩ | ⟨-, ws, out, st, hws, hloop, -, rfl⟩⟩ := execApply_next len s t h
  · exact .of_eq rfl
  · exact .of_eq rfl
  · exact .of_some hws rfl (applyLoop_sameFixedParts _ _ _ _ _ _ _ _ hloop).words

theorem execWrctr_keepsFixedWords {s t : State} (h : exec .wrctr s = .next t) :
    s.KeepsFixedWords t := by
  obtain ⟨-, ⟨-, rfl⟩ | ⟨-, -, rfl⟩ | ⟨-, ws, hws, rfl⟩⟩ := execWrctr_next s t h
  · exact .of_eq rfl
  · exact .of_eq rfl
  · exact .of_some hws rfl (Words.sameButCtr_setCtr ws _)

theorem exec_keepsFixedWords (i : Instr) (hi : ∀ ndr, i ≠ .init ndr) {s t : State}
    (h : exec i s = .next t) : s.KeepsFixedWords t := by
  cases i with
  | init ndr => exact absurd rfl (hi ndr)
  | apply len => exact execApply_keepsFixedWords len h
  | rdreg reg => exact .of_eq (execRdreg_frame h).1
  | wrctr => exact execWrctr_keepsFixedWords h

/-- APPLY changes KSB only below CAP, and neither KSB nor S where no refill happens. -/
theorem execApply_keeps_buffer (len : BitVec 24) {s t : State} (h : exec (.apply len) s = .next t) :
    (∀ a, s.cfg.cap ≤ a → Memory.read t.ksb a = Memory.read s.ksb a) ∧
    (s.offset + len.toNat < s.cfg.cap ∨ len = 0 ∨ s.halt = true ∨ s.initd = false →
      t.words = s.words ∧ t.ksb = s.ksb) := by
  obtain ⟨hlen, ⟨-, rfl⟩ | ⟨-, -, rfl⟩ | ⟨hrun, ws, out, st, hws, hloop, -, rfl⟩⟩ :=
    execApply_next len s t h
  · exact ⟨fun _ _ => rfl, fun _ => ⟨rfl, rfl⟩⟩
  · exact ⟨fun _ _ => rfl, fun _ => ⟨rfl, rfl⟩⟩
  · refine ⟨(applyLoop_sameFixedParts _ _ _ _ _ _ _ _ hloop).ksb, fun hno => ?_⟩
    suffices hst : st.words = ws ∧ st.ksb = s.ksb from
      ⟨(congrArg some hst.1).trans hws.symm, hst.2⟩
    obtain hfit | rfl | hhalt | hunset := hno
    · exact applyLoop_no_refill _ _ _ _ _ _ _ _
        (Nat.lt_of_le_of_lt (Nat.add_le_add_left (List.length_take_le ..) _) hfit) hloop
    · cases (applyLoop_nil ..).symm.trans hloop
      exact ⟨rfl, rfl⟩
    · simp [hrun] at hhalt
    · simp [State.initd, hws] at hunset

/-! ### Steps -/

theorem runWord_keeps_cfg (w : Word) {s t : State} (h : runWord w s = .next t) : t.cfg = s.cfg := by
  obtain ⟨i, -, hexec⟩ | ⟨e, -, herr⟩ := runWord_cases w s
  · exact (exec_keeps_build_and_port i (hexec ▸ h)).1
  · cases herr.symm.trans h
    exact (refuseCommand_frame ..).1

theorem step_keeps_cfg {s t : State} (h : step s = .next t) : t.cfg = s.cfg := by
  obtain ⟨-, hs⟩ | ⟨-, -, hs⟩ | ⟨-, w, rest, -, hs⟩ := step_cases s
  · cases hs.symm.trans h
    rfl
  · cases hs.symm.trans h
    rfl
  · exact (runWord_keeps_cfg w (hs.symm.trans h) :)

end Sys2Proof.Machine
end

section
/-! SUPPORT. How a step can stop. -/

namespace Sys2Proof.Machine

/-- The result is a next state, or one of the stops in which the engine waits for the host's bytes
(70_reset_and_hazards.md R264). -/
def StopsOnlyForHost (r : Result) : Prop :=
  (∃ t, r = .next t) ∨ r = .fault .stuckDataIn ∨ r = .fault .stuckDataOut

theorem StopsOnlyForHost.next (t : State) : StopsOnlyForHost (.next t) :=
  .inl ⟨t, rfl⟩

theorem StopsOnlyForHost.withDataIn (n : Nat) (s : State) (k : List Byte → State → Result)
    (h : n ≤ s.dataIn.length →
      StopsOnlyForHost (k (s.dataIn.take n) { s with dataIn := s.dataIn.drop n })) :
    StopsOnlyForHost (withDataIn n s k) := by
  by_cases hn : n ≤ s.dataIn.length
  · exact withDataIn_of_le n s k hn ▸ h hn
  · exact .inr (.inl (withDataIn_of_lt n s k (by omega)))

theorem StopsOnlyForHost.doutWrite (bytes : List Byte) (s : State) :
    StopsOnlyForHost (doutWrite bytes s) := by
  cases h : s.accepts bytes.length with
  | true => exact doutWrite_of_accepts bytes s h ▸ .next _
  | false => exact .inr (.inr (doutWrite_of_not_accepts bytes s h))

/-- APPLY is the one command whose meaning has other stops, and the invariant rules them out. -/
theorem exec_stopsOnlyForHost (i : Instr) {s : State} (h : s.Inv) : StopsOnlyForHost (exec i s) := by
  cases i with
  | init ndr =>
    refine .withDataIn 40 s _ fun _ => ?_
    dsimp only
    split
    · exact .next _
    · split <;> exact .next _
  | apply len =>
    refine .withDataIn len.toNat s _ fun hlen => ?_
    dsimp only
    split
    · exact .next _
    · split
      · exact .next _
      · rename_i ws hws
        obtain ⟨out, st, hloop, -⟩ := h.applyLoop_ends hws hlen
        rw [hloop]
        exact .doutWrite out _
  | rdreg reg =>
    change StopsOnlyForHost (execRdreg reg s)
    unfold execRdreg
    split
    · exact .doutWrite _ s
    · exact .next _
  | wrctr =>
    refine .withDataIn 8 s _ fun _ => ?_
    dsimp only
    split
    · exact .next _
    · split <;> exact .next _

theorem step_stopsOnlyForHost {s : State} (h : s.Inv) : StopsOnlyForHost (step s) := by
  obtain ⟨-, hs⟩ | ⟨-, -, hs⟩ | ⟨-, w, rest, -, hs⟩ := step_cases s
  · exact hs ▸ .next _
  · exact hs ▸ .next _
  · rw [hs]
    obtain ⟨i, -, hexec⟩ | ⟨e, -, herr⟩ := runWord_cases w { s with cmdIn := rest }
    · exact hexec ▸ exec_stopsOnlyForHost i (h.withPorts ..)
    · exact herr ▸ .next _

end Sys2Proof.Machine
end

section
/-! PROOFS. Frames, writers, the build, the model's stops and the reset values (O20, O21, O28, O29, O32,
O7). -/

namespace Sys2Proof.Machine

/-- Settles O20, command by command. -/
theorem frameOfInitRdregWrctr : Obligations.FrameOfInitRdregWrctr := by
  refine ⟨fun s t i _ hi h => ?_, fun s t ndr h => execInit_frame h,
    fun s t reg h => execRdreg_frame h, fun s t _ h => ?_⟩
  · obtain ⟨hcfg, hcmd, hreset⟩ := exec_keeps_build_and_port i h
    exact ⟨fun a => by rw [exec_keeps_ksb i hi h], hcfg, hcmd, hreset⟩
  · obtain ⟨hndr, hdout, hroom, herror, hwords⟩ := execWrctr_frame h
    have hfixed := execWrctr_keepsFixedWords h
    exact ⟨hndr, hfixed.initd, hdout, hroom, herror, hwords, hfixed.set⟩

/-- Settles O21: what the loop never changes, and the loop without a refill. -/
theorem frameOfApply : Obligations.FrameOfApply := by
  intro s t len h
  obtain ⟨hcfg, hcmd, hreset⟩ := exec_keeps_build_and_port _ h
  obtain ⟨hndr, herror⟩ := execApply_frame h
  obtain ⟨hksb, hkept⟩ := execApply_keeps_buffer len h
  have hfixed := execApply_keepsFixedWords len h
  refine ⟨hcfg, hndr, hcmd, hreset, hfixed.initd, herror, hksb, fun hno => ?_, hfixed.set⟩
  obtain ⟨hwords, hsame⟩ := hkept hno
  exact ⟨hwords, fun a => by rw [hsame]⟩

/-- Settles O28: an error of decoding leaves S alone, and so does RDREG; APPLY and WRCTR change its counter
words only. -/
theorem onlyItsWritersChangeTheState : Obligations.OnlyItsWritersChangeTheState := by
  intro s t w rest hr hc hstep hinit
  have hrun := (step_of_cmdIn hr hc).symm.trans hstep
  obtain ⟨i, hd, hexec⟩ | ⟨e, hd, herr⟩ := runWord_cases w { s with cmdIn := rest }
  · rw [hexec] at hrun
    have hfixed := exec_keepsFixedWords i (fun ndr hi => hinit ndr (hi ▸ hd)) hrun
    refine ⟨hfixed.unset, hfixed.set, fun happly hwrctr => ?_⟩
    cases i with
    | init ndr => exact absurd hd (hinit ndr)
    | apply len => exact absurd hd (happly len)
    | rdreg reg => exact ((execRdreg_frame hrun).1 :)
    | wrctr => exact absurd hd hwrctr
  · cases herr.symm.trans hrun
    obtain ⟨-, hwords, -⟩ := refuseCommand_frame (.ofDecodeError e) w { s with cmdIn := rest }
    have hfixed := State.KeepsFixedWords.of_eq hwords
    exact ⟨hfixed.unset, hfixed.set, fun _ _ => hwords⟩

/-- Settles O29: no command and no reset writes the build; the word of CONFIG, build by build. -/
theorem configIsHardwired : Obligations.ConfigIsHardwired := by
  refine ⟨fun s t h => ?_, fun c => ?_⟩
  · have hcfg := step_keeps_cfg h
    exact ⟨hcfg, congrArg Config.word hcfg⟩
  · obtain ⟨batch, testAccess⟩ := c
    cases batch <;> cases testAccess <;> rfl

/-- Settles O32: a step from the invariant can only stop where the engine waits for the host. -/
theorem invariantRulesOutTheModelStops : Obligations.InvariantRulesOutTheModelStops := by
  intro s h
  obtain ⟨t, hs⟩ | hs | hs := step_stopsOnlyForHost h <;> simp [hs]

theorem State.statusWord_resetOf (c : Config) : (State.resetOf c).statusWord = 0 := by
  simp [State.statusWord, State.initd, State.resetOf]

/-- Settles O7: the reset state is written out, and STATUS is assembled from its zero fields. -/
theorem resetValues : Obligations.ResetValues :=
  fun c => ⟨rfl, rfl, rfl, rfl, rfl, rfl, rfl, rfl, State.statusWord_resetOf c, fun _ => rfl, rfl⟩

end Sys2Proof.Machine
end

section
/-! PROOFS. The step of a word that decodes to a command (O5). -/

namespace Sys2Proof.Machine

/-- Settles O5: the step runs the word at the head of the port, and taking it off the port leaves the build,
so the word decodes to the same command there. -/
theorem stepRunsTheDecodedCommand : Obligations.StepRunsTheDecodedCommand := by
  intro s w rest i hreset hcmd hdecode
  calc step s
    _ = runWord w { s with cmdIn := rest } := step_of_cmdIn hreset hcmd
    _ = exec i { s with cmdIn := rest } := runWord_ok w _ i hdecode

end Sys2Proof.Machine
end

section
/-! SUPPORT. The fields of a command word, the tests of decoding and the encoder as arithmetic on the word. -/

namespace Sys2Proof

/-- A field of a word, `len` bits from bit `start` up, as quotient and remainder (30_encoding.md R87). -/
theorem toNat_extractLsb' (w : Word) (start len : Nat) :
    (w.extractLsb' start len).toNat = w.toNat / 2 ^ start % 2 ^ len := by
  rw [BitVec.extractLsb'_toNat, Nat.shiftRight_eq_div_pow]

theorem opField_beq_iff (w : Word) (op : BitVec 4) :
    (opField w == op) = true ↔ w.toNat % 16 = op.toNat := by
  simp [opField, ← BitVec.toNat_inj]

theorem rsv0Field_bne_zero_iff (w : Word) : (rsv0Field w != 0) = true ↔ w.toNat / 16 % 16 ≠ 0 := by
  simp [rsv0Field, ← BitVec.toNat_inj, Nat.shiftRight_eq_div_pow]

/-- A reserved field that reaches up to bit 31 is set where the word has a bit from `start` up. -/
theorem topField_bne_zero_iff (w : Word) (start len : Nat) (h : start + len = 32) :
    (w.extractLsb' start len != 0) = true ↔ w.toNat / 2 ^ start ≠ 0 := by
  have hlt : w.toNat / 2 ^ start < 2 ^ len :=
    Nat.div_lt_of_lt_mul (by rw [← Nat.pow_add, h]; exact w.isLt)
  rw [bne_iff_ne, ne_eq, ← BitVec.toNat_inj, toNat_extractLsb', Nat.mod_eq_of_lt hlt]
  simp

/-- An operand field is the number its bits make, from bit 8 up. -/
theorem operandField_eq_ofNat (w : Word) (len : Nat) :
    w.extractLsb' 8 len = BitVec.ofNat len (w.toNat / 256) := by
  apply BitVec.eq_of_toNat_eq
  exact toNat_extractLsb' w 8 len

/-- The first test of 30_encoding.md R87. -/
theorem not_opcodePresent_iff (testAccess : Bool) (w : Word) :
    (!opcodePresent testAccess w) = true ↔
      ¬(w.toNat % 16 = 1 ∨ w.toNat % 16 = 2 ∨ w.toNat % 16 = 3 ∨ w.toNat % 16 = 4) ∨
        (w.toNat % 16 = 4 ∧ testAccess = false) := by
  simp only [opcodePresent, Bool.not_eq_true', ← Bool.not_eq_true, Bool.or_eq_true, Bool.and_eq_true,
    opField_beq_iff]
  cases testAccess <;> simp <;> omega

/-- The second test of 30_encoding.md R87. -/
theorem reservedFieldSet_iff (w : Word) :
    reservedFieldSet w = true ↔
      w.toNat / 16 % 16 ≠ 0 ∨ (w.toNat % 16 = 1 ∧ w.toNat / 65536 ≠ 0) ∨
        (w.toNat % 16 = 3 ∧ w.toNat / 8192 ≠ 0) ∨ (w.toNat % 16 = 4 ∧ w.toNat / 256 ≠ 0) := by
  simp only [reservedFieldSet, Bool.or_eq_true, Bool.and_eq_true, opField_beq_iff,
    rsv0Field_bne_zero_iff, topField_bne_zero_iff w 16 16 rfl, topField_bne_zero_iff w 13 19 rfl,
    topField_bne_zero_iff w 8 24 rfl, or_assoc]
  rfl

theorem toNat_append {m n : Nat} (x : BitVec m) (y : BitVec n) :
    (x ++ y).toNat = 2 ^ n * x.toNat + y.toNat := by
  rw [BitVec.toNat_append, Nat.shiftLeft_eq, Nat.mul_comm, Nat.two_pow_add_eq_or_of_lt y.isLt]

/-- A word of the fields `x`, RSV0 = 0 and `op`, read as a number (30_encoding.md R81). -/
theorem toNat_word (x : BitVec 24) (op : BitVec 4) :
    (x ++ 0#4 ++ op : Word).toNat = 256 * x.toNat + op.toNat := by
  rw [toNat_append (x ++ 0#4) op, toNat_append x 0#4, BitVec.toNat_ofNat]
  omega

theorem toNat_zero_append (m : Nat) {n : Nat} (x : BitVec n) : (0#m ++ x).toNat = x.toNat := by
  simp

theorem toNat_encode_init (ndr : BitVec 8) : (encode (.init ndr)).toNat = 256 * ndr.toNat + 1 :=
  (toNat_word _ 1).trans (congrArg (256 * · + 1) (toNat_zero_append 16 ndr))

theorem toNat_encode_apply (len : BitVec 24) : (encode (.apply len)).toNat = 256 * len.toNat + 2 :=
  toNat_word len 2

theorem toNat_encode_rdreg (reg : BitVec 5) : (encode (.rdreg reg)).toNat = 256 * reg.toNat + 3 :=
  (toNat_word _ 3).trans (congrArg (256 * · + 3) (toNat_zero_append 19 reg))

theorem toNat_encode_wrctr : (encode .wrctr).toNat = 4 :=
  rfl

/-- The operand is read back from its number, whatever the byte below it. -/
theorem ofNat_operand {n : Nat} (x : BitVec n) (low : Nat) (h : low < 256) :
    BitVec.ofNat n ((256 * x.toNat + low) / 256) = x := by
  rw [Nat.mul_add_div (by decide), Nat.div_eq_of_lt h, Nat.add_zero, BitVec.ofNat_toNat,
    BitVec.setWidth_eq]

end Sys2Proof
end

section
/-! PROOFS. Decoding and encoding (O4, O3, O2, O1). -/

namespace Sys2Proof

/-- Settles O4: each test of R87 on the fields is its test on the number, and so is each operand. -/
theorem decodeFollowsTheFieldOrder : Obligations.DecodeFollowsTheFieldOrder := by
  intro testAccess w
  refine if_congr (not_opcodePresent_iff testAccess w) rfl (if_congr (reservedFieldSet_iff w) rfl ?_)
  refine if_congr (opField_beq_iff w 1) ?_
    (if_congr (opField_beq_iff w 2) ?_ (if_congr (opField_beq_iff w 3) ?_ rfl))
  · rw [ndrField, operandField_eq_ofNat]
  · rw [lenField, operandField_eq_ofNat]
  · rw [regField, operandField_eq_ofNat]

/-- Settles O3: the tests and the operand leave no bit of the word open, opcode by opcode. -/
theorem encodeRestoresTheWord : Obligations.EncodeRestoresTheWord := by
  intro testAccess w i h
  have hw := w.isLt
  rw [decodeFollowsTheFieldOrder testAccess w] at h
  apply BitVec.eq_of_toNat_eq
  split_ifs at h with hop hrsv hinit happly hrdreg
  · cases h
    rw [toNat_encode_init, BitVec.toNat_ofNat]
    omega
  · cases h
    rw [toNat_encode_apply, BitVec.toNat_ofNat]
    omega
  · cases h
    rw [toNat_encode_rdreg, BitVec.toNat_ofNat]
    omega
  · cases h
    rw [toNat_encode_wrctr]
    omega

/-- Settles O2: opcode by opcode, the word of a command passes the tests of R87 up to its own, and its operand
is read back. -/
theorem decodeReadsBackEncode : Obligations.DecodeReadsBackEncode := by
  intro c i
  rw [decodeFollowsTheFieldOrder c.testAccess (encode i)]
  cases i with
  | init ndr =>
    have hndr := ndr.isLt
    rw [toNat_encode_init, ofNat_operand ndr 1 (by decide), if_neg (by omega), if_neg (by omega),
      if_pos (by omega)]
    rfl
  | apply len =>
    rw [toNat_encode_apply, ofNat_operand len 2 (by decide), if_neg (by omega), if_neg (by omega),
      if_neg (by omega), if_pos (by omega)]
    rfl
  | rdreg reg =>
    have hreg := reg.isLt
    rw [toNat_encode_rdreg, ofNat_operand reg 3 (by decide), if_neg (by omega), if_neg (by omega),
      if_neg (by omega), if_neg (by omega), if_pos (by omega)]
    rfl
  | wrctr =>
    cases h : c.testAccess <;> simp [encode, Instr.encodable, h]

/-- Settles O1: the seven words are decoded. -/
theorem exampleWordsDecode : Obligations.ExampleWordsDecode := by
  unfold Obligations.ExampleWordsDecode
  decide

end Sys2Proof
end

section
/-! SUPPORT. Which registers can be read, what APPLY's loop sends, and how many bytes each command takes and
sends. -/

namespace Sys2Proof.Machine

theorem Reg.ofIndex_word {reg : BitVec 5} (h : reg.toNat < 0x10) :
    Reg.ofIndex reg = .word ⟨reg.toNat, h⟩ :=
  dif_pos h

theorem Reg.ofIndex_reserved : ∀ {reg : BitVec 5}, 0x15 ≤ reg.toNat → Reg.ofIndex reg = .reserved := by
  decide

/-- A State word is readable with TEST_ACCESS after INIT (44_register_access.md R200). -/
theorem State.exists_regValue_word_iff (s : State) (k : Fin 16) :
    (∃ v, s.regValue (.word k) = .ok v) ↔ s.cfg.testAccess = true ∧ s.initd = true := by
  cases hta : s.cfg.testAccess with
  | false => simp [State.regValue, hta]
  | true => cases hws : s.words <;> simp [State.regValue, State.initd, hta, hws]

/-- OFFSET, NDR, STATUS, CONFIG and ERRCMD are readable in every state (10_state.md R32). -/
theorem State.exists_regValue_named (s : State) {reg : BitVec 5} (hlow : 0x10 ≤ reg.toNat)
    (hhigh : reg.toNat ≤ 0x14) : ∃ v, s.regValue (Reg.ofIndex reg) = .ok v := by
  obtain rfl | rfl | rfl | rfl | rfl :
      reg = 0x10 ∨ reg = 0x11 ∨ reg = 0x12 ∨ reg = 0x13 ∨ reg = 0x14 := by bv_omega
  all_goals exact ⟨_, rfl⟩

/-- Which indices have a value: the five named registers, and the State words with TEST_ACCESS after INIT
(44_register_access.md R200). -/
theorem State.exists_regValue_iff (s : State) (reg : BitVec 5) :
    (∃ v, s.regValue (Reg.ofIndex reg) = .ok v) ↔
      reg.toNat ≤ 0x14 ∧ (0x10 ≤ reg.toNat ∨ (s.cfg.testAccess = true ∧ s.initd = true)) := by
  by_cases hword : reg.toNat < 0x10
  · rw [Reg.ofIndex_word hword, State.exists_regValue_word_iff]
    exact ⟨fun h => ⟨by omega, .inr h⟩, fun ⟨_, h⟩ => h.resolve_left (by omega)⟩
  · by_cases hnamed : reg.toNat ≤ 0x14
    · exact iff_of_true (s.exists_regValue_named (by omega) hnamed) ⟨hnamed, .inl (by omega)⟩
    · rw [Reg.ofIndex_reserved (by omega)]
      exact iff_of_false (fun ⟨_, h⟩ => nomatch h) (fun ⟨h, _⟩ => hnamed h)

/-- APPLY's loop sends as many bytes as it takes (42_streaming_xor.md R171). -/
theorem applyLoop_length (c : Config) (ndr : BitVec 8) (fuel : Nat) (inp out : List Byte)
    (st st' : CipherStream) (h : applyLoop c ndr fuel inp [] st = .ok (out, st')) :
    out.length = inp.length := by
  have hkept := applyLoop_induction c ndr (fun left out _ => out.length + left.length = inp.length)
    ?_ fuel inp [] out st st' (by simp) h
  · simpa using hkept
  · intro left out st ks _ hlen hks
    have hread := (Memory.readBytes_inv _ _ _ _ hks).1
    simp only [List.length_append, xorBytes_length, List.length_take, List.length_drop, hread]
    omega

/-- How many data-out bytes a command sends where it completes (30_encoding.md R88). -/
def doutLen (s : State) : Instr → Nat
  | .init _ => 0
  | .apply len => if s.halt = false ∧ s.initd = true then len.toNat else 0
  | .rdreg reg =>
    if reg.toNat ≤ 0x14 ∧ (0x10 ≤ reg.toNat ∨ (s.cfg.testAccess = true ∧ s.initd = true)) then 4
    else 0
  | .wrctr => 0

/-- From `s` to `t` the engine takes `din` data-in bytes and sends `dout` data-out bytes. -/
structure Transfers (s t : State) (din dout : Nat) : Prop where
  offered : din ≤ s.dataIn.length
  taken : t.dataIn = s.dataIn.drop din
  sent : ∃ out, t.dataOut = s.dataOut ++ out ∧ out.length = dout

/-- Nothing is sent. -/
theorem Transfers.silent {s t : State} {din : Nat} (offered : din ≤ s.dataIn.length)
    (taken : t.dataIn = s.dataIn.drop din) (hout : t.dataOut = s.dataOut) : Transfers s t din 0 :=
  ⟨offered, taken, [], hout.trans (List.append_nil _).symm, rfl⟩

/-- No data-in byte is taken. -/
theorem Transfers.refuseCommand (c : Cause) (w : Word) (s : State) :
    Transfers s (s.refuseCommand c w) 0 0 := by
  obtain ⟨-, -, -, -, -, -, -, hdin, hdout, -⟩ := refuseCommand_frame c w s
  exact .silent (Nat.zero_le _) hdin hdout

theorem execApply_transfers {len : BitVec 24} {s t : State} (h : exec (.apply len) s = .next t) :
    Transfers s t len.toNat (doutLen s (.apply len)) := by
  obtain ⟨hlen, ⟨hhalt, rfl⟩ | ⟨-, hws, rfl⟩ | ⟨hrun, ws, out, st, hws, hloop, -, rfl⟩⟩ :=
    execApply_next len s t h
  · rw [doutLen, if_neg (by simp [hhalt])]
    exact .silent hlen rfl rfl
  · rw [doutLen, if_neg (by simp [State.initd, hws])]
    exact .silent hlen rfl rfl
  · rw [doutLen, if_pos (by simp [State.initd, hrun, hws])]
    refine ⟨hlen, rfl, out, rfl, ?_⟩
    rw [applyLoop_length _ _ _ _ _ _ _ hloop, List.length_take_of_le hlen]

theorem execRdreg_transfers {reg : BitVec 5} {s t : State} (h : exec (.rdreg reg) s = .next t) :
    Transfers s t 0 (doutLen s (.rdreg reg)) := by
  rw [doutLen]
  obtain ⟨v, hv, -, rfl⟩ | ⟨c, hc, rfl⟩ := execRdreg_next reg s t h
  · rw [if_pos ((s.exists_regValue_iff reg).mp ⟨v, hv⟩)]
    exact ⟨Nat.zero_le _, rfl, bytesLe32 v, rfl, bytesLe32_length v⟩
  · have hnone : ¬∃ v, s.regValue (Reg.ofIndex reg) = .ok v :=
      fun ⟨_, hv⟩ => nomatch hc.symm.trans hv
    rw [if_neg (mt (s.exists_regValue_iff reg).mpr hnone)]
    exact .refuseCommand ..

/-- A command that completes takes its DINLEN bytes, whether or not it executes (30_encoding.md R88). -/
theorem exec_transfers (i : Instr) {s t : State} (h : exec i s = .next t) :
    Transfers s t (dinLen i) (doutLen s i) := by
  cases i with
  | init ndr =>
    obtain ⟨hlen, ⟨-, rfl⟩ | ⟨-, -, rfl⟩ | ⟨-, -, rfl⟩⟩ := execInit_next ndr s t h <;>
      exact .silent hlen rfl rfl
  | apply len => exact execApply_transfers h
  | rdreg reg => exact execRdreg_transfers h
  | wrctr =>
    obtain ⟨hlen, ⟨-, rfl⟩ | ⟨-, -, rfl⟩ | ⟨-, _, -, rfl⟩⟩ := execWrctr_next s t h <;>
      exact .silent hlen rfl rfl

end Sys2Proof.Machine
end

section
/-! PROOFS. How many bytes a completed word takes and sends, and words that are no command (O27, O24). -/

namespace Sys2Proof.Machine

/-- Settles O27: a command transfers what `exec_transfers` says, a word that is no command nothing. -/
theorem dataLengthsPerCommand : Obligations.DataLengthsPerCommand := by
  intro s t w rest hreset hcmd hstep
  have hrun := (step_of_cmdIn hreset hcmd).symm.trans hstep
  obtain ⟨i, hd, hexec⟩ | ⟨e, hd, herr⟩ := runWord_cases w { s with cmdIn := rest }
  · rw [hexec] at hrun
    obtain ⟨-, hport, -⟩ := exec_keeps_build_and_port i hrun
    obtain ⟨hoffered, htaken, hsent⟩ := exec_transfers i hrun
    dsimp only at hd
    cases i <;> simp only [hd] <;> exact ⟨hport, hoffered, htaken, hsent⟩
  · cases herr.symm.trans hrun
    obtain ⟨hoffered, htaken, hsent⟩ :=
      Transfers.refuseCommand (.ofDecodeError e) w { s with cmdIn := rest }
    obtain ⟨-, -, -, -, -, -, hport, -⟩ :=
      refuseCommand_frame (.ofDecodeError e) w { s with cmdIn := rest }
    dsimp only at hd
    simp only [hd]
    exact ⟨hport, hoffered, htaken, hsent⟩

/-- Settles O24: the word is refused with its decode error's cause, by error entry or, while halted, by
dropping it. -/
theorem illegalWordsRaiseTheirError : Obligations.IllegalWordsRaiseTheirError := by
  intro s w rest e hreset hcmd hd
  rw [step_of_cmdIn hreset hcmd, runWord_error w { s with cmdIn := rest } e hd]
  by_cases hhalt : s.halt = true
  · rw [if_pos hhalt, refuseCommand_halted _ _ { s with cmdIn := rest } hhalt]
  · have hrun : s.halt = false := Bool.eq_false_iff.mpr hhalt
    rw [if_neg hhalt, refuseCommand_running _ _ { s with cmdIn := rest } hrun]
    cases e <;> rfl

end Sys2Proof.Machine
end

section
/-! SUPPORT. Rotations, the steps of the quarter round, and the lanes of the row vectors. -/

namespace Sys2Proof.Machine

theorem rotl32_eq_rotateLeft (x : Word) {n : Nat} (hn : n < 32) : rotl32 x n = x.rotateLeft n := by
  rw [BitVec.rotateLeft_def, Nat.mod_eq_of_lt hn, rotl32]

/-- Rotations by amounts that add up to the word's width undo each other. -/
theorem rotl32_rotl32_of_add_eq (x : Word) {m n : Nat} (hm : 0 < m) (hn : 0 < n) (h : m + n = 32) :
    rotl32 (rotl32 x m) n = x := by
  have hm32 : m < 32 := by omega
  have hn32 : n < 32 := by omega
  rw [rotl32_eq_rotateLeft _ hn32, rotl32_eq_rotateLeft _ hm32]
  ext i hi
  simp only [BitVec.getElem_rotateLeft, Nat.mod_eq_of_lt hm32, Nat.mod_eq_of_lt hn32]
  by_cases hin : i < n
  · rw [dif_pos hin, dif_neg (by omega)]
    congr 1
    omega
  · rw [dif_neg hin, dif_pos (by omega)]
    congr 1
    omega

/-- One addition, exclusive or and rotation by `n` of the quarter round, the words then turned by two places
so that the next one has the same shape. -/
def Quad.step (n : Nat) (q : Quad) : Quad :=
  ⟨q.c, rotl32 (q.d ^^^ (q.a + q.b)) n, q.a + q.b, q.b⟩

/-- The inverse of `Quad.step n`. -/
def Quad.unstep (n : Nat) (q : Quad) : Quad :=
  ⟨q.c - q.d, q.d, q.a, rotl32 q.b (32 - n) ^^^ q.c⟩

theorem quarterRound_eq_steps :
    quarterRound = Quad.step 7 ∘ Quad.step 8 ∘ Quad.step 12 ∘ Quad.step 16 :=
  rfl

theorem Quad.unstep_step {n : Nat} (hpos : 0 < n) (hlt : n < 32) (q : Quad) :
    Quad.unstep n (Quad.step n q) = q := by
  have hrot := rotl32_rotl32_of_add_eq (q.d ^^^ (q.a + q.b)) hpos (Nat.sub_pos_of_lt hlt) (by omega)
  simp [Quad.step, Quad.unstep, hrot]

theorem Quad.step_unstep {n : Nat} (hpos : 0 < n) (hlt : n < 32) (q : Quad) :
    Quad.step n (Quad.unstep n q) = q := by
  have hrot := rotl32_rotl32_of_add_eq q.b (Nat.sub_pos_of_lt hlt) hpos (by omega)
  simp [Quad.step, Quad.unstep, hrot]

theorem Quad.step_bijective {n : Nat} (hpos : 0 < n) (hlt : n < 32) :
    Function.Bijective (Quad.step n) :=
  Function.bijective_iff_has_inverse.mpr
    ⟨Quad.unstep n, Quad.unstep_step hpos hlt, Quad.step_unstep hpos hlt⟩

theorem V4.lane_mod (v : V4) (i : Nat) : v.lane (i % 4) = v.lane i := by
  rw [V4.lane, V4.lane, Nat.mod_mod]

/-- LROT's lane formula, at every index modulo 4 (40_permutation.md R113). -/
theorem lane_lrot (v : V4) (k i : Nat) : (lrot v k).lane i = v.lane (i + k) := by
  have hlane : ∀ j < 4, (lrot v k).lane j = v.lane (j + k) := by
    intro j hj
    interval_cases j <;> rfl
  calc (lrot v k).lane i
    _ = (lrot v k).lane (i % 4) := (V4.lane_mod _ i).symm
    _ = v.lane (i % 4 + k) := hlane _ (Nat.mod_lt i (by decide))
    _ = v.lane (i + k) := by rw [← V4.lane_mod, Nat.mod_add_mod, V4.lane_mod]

theorem lrot_lrot (v : V4) (k l : Nat) : lrot (lrot v k) l = lrot v (l + k) := by
  rw [lrot, lane_lrot, lane_lrot, lane_lrot, lane_lrot]
  simp only [Nat.add_assoc, lrot]

theorem lrot_four (v : V4) : lrot v 4 = v :=
  rfl

theorem undiagonalize_diagonalize (r : Rows) : undiagonalize (diagonalize r) = r := by
  simp [undiagonalize, diagonalize, lrot_lrot, lrot_four]

/-- Lane `i` of row `r` holds word `4r + i` (40_permutation.md R110). -/
theorem lane_ofWords (x : Words) (i : Nat) (hi : i < 4) :
    (Rows.ofWords x).a.lane i = x[i] ∧ (Rows.ofWords x).b.lane i = x[4 + i] ∧
    (Rows.ofWords x).c.lane i = x[8 + i] ∧ (Rows.ofWords x).d.lane i = x[12 + i] := by
  interval_cases i <;> exact ⟨rfl, rfl, rfl, rfl⟩

theorem toWords_ofWords (x : Words) : (Rows.ofWords x).toWords = x := by
  ext i hi
  interval_cases i <;> rfl

/-- VQR on the rows is QR on each column of the words. -/
theorem toWords_vectorQuarterRound (r : Rows) :
    (vectorQuarterRound r).toWords =
      quarterRoundAt (quarterRoundAt (quarterRoundAt (quarterRoundAt r.toWords
        0 4 8 12) 1 5 9 13) 2 6 10 14) 3 7 11 15 := by
  simp [vectorQuarterRound, Rows.toWords, quarterRoundAt]

/-- VQR between DIAGONALIZE and UNDIAGONALIZE is QR on each diagonal of the words. -/
theorem toWords_diagonalRound (r : Rows) :
    (undiagonalize (vectorQuarterRound (diagonalize r))).toWords =
      quarterRoundAt (quarterRoundAt (quarterRoundAt (quarterRoundAt r.toWords
        0 5 10 15) 1 6 11 12) 2 7 8 13) 3 4 9 14 := by
  simp [undiagonalize, vectorQuarterRound, diagonalize, lrot, V4.lane, Rows.toWords, quarterRoundAt]

theorem permute_eq_iterate (n : Nat) (r : Rows) : permute n r = doubleRound^[n] r := by
  induction n generalizing r with
  | zero => rfl
  | succ n ih => exact ih (doubleRound r)

theorem doubleRound_zero :
    doubleRound (Rows.ofWords (Vector.replicate 16 0)) = Rows.ofWords (Vector.replicate 16 0) := by
  decide

end Sys2Proof.Machine
end

section
/-! PROOFS. The Permutation Engine (O33, O34, O35, O36). -/

namespace Sys2Proof.Machine

/-- Settles O33: the quarter round is four steps, each of which can be undone. -/
theorem quarterRoundIsBijective : Obligations.QuarterRoundIsBijective := by
  unfold Obligations.QuarterRoundIsBijective
  rw [quarterRound_eq_steps]
  refine .comp ?_ (.comp ?_ (.comp ?_ ?_)) <;> exact Quad.step_bijective (by decide) (by decide)

/-- Settles O34: rotations add, and rotating by four lanes changes nothing. -/
theorem laneRotationsAndTheirInverses : Obligations.LaneRotationsAndTheirInverses := by
  refine ⟨fun v k _ hk => ⟨fun i _ => ?_, ?_⟩, fun x i hi => ?_, undiagonalize_diagonalize⟩
  · rw [lane_lrot, V4.lane_mod]
  · rw [lrot_lrot, Nat.sub_add_cancel (by omega), lrot_four]
  · have hmod (k : Nat) : (i + k) % 4 < 4 := Nat.mod_lt _ (by decide)
    obtain ⟨ha, -, -, -⟩ := lane_ofWords x i hi
    obtain ⟨-, hb, -, -⟩ := lane_ofWords x _ (hmod 1)
    obtain ⟨-, -, hc, -⟩ := lane_ofWords x _ (hmod 2)
    obtain ⟨-, -, -, hd⟩ := lane_ofWords x _ (hmod 3)
    rw [V4.lane_mod] at hb hc hd
    exact ⟨ha, (lane_lrot _ 1 i).trans hb, (lane_lrot _ 2 i).trans hc, (lane_lrot _ 3 i).trans hd⟩

/-- Settles O35: the vector form does the four columns, then the four diagonals. -/
theorem doubleRoundEqualsItsScalarForm : Obligations.DoubleRoundEqualsItsScalarForm := by
  intro x
  rw [doubleRound, toWords_diagonalRound, toWords_vectorQuarterRound, toWords_ofWords,
    doubleRoundScalar]

/-- Settles O36: by induction on the rounds, and the zero block is a fixed point of one double round. -/
theorem permuteRepeatsTheDoubleRound : Obligations.PermuteRepeatsTheDoubleRound := by
  refine ⟨permute_eq_iterate, fun n => ?_⟩
  rw [permute_eq_iterate, Function.iterate_fixed doubleRound_zero, toWords_ofWords]

end Sys2Proof.Machine
end

section
/-! SUPPORT. The counter and the blocks of a State whose counter has moved on, and the bytes of a serialized
block. -/

namespace Sys2Proof.Machine

/-- The counter sum in naturals (41_batch_generator.md R140, R147). -/
theorem Words.toNat_ctr_add (ws : Words) (n : Nat) :
    (Words.ctr ws + BitVec.ofNat 64 n).toNat =
      (ws[12].toNat + 2 ^ 32 * ws[13].toNat + n) % 2 ^ 64 := by
  rw [BitVec.toNat_add, BitVec.toNat_ofNat, Nat.add_mod_mod, Words.toNat_ctr]

/-- Block `j` of a State advanced by `i` blocks is block `i + j` of the State. -/
theorem block_setCtr_add (ws : Words) (ndr : BitVec 8) (i j : Nat) :
    block (Words.setCtr ws (Words.ctr ws + BitVec.ofNat 64 i)) ndr j = block ws ndr (i + j) := by
  have hcopy : workingCopy (Words.setCtr ws (Words.ctr ws + BitVec.ofNat 64 i)) j =
      workingCopy ws (i + j) := by
    rw [workingCopy, Words.setCtr_setCtr, Words.ctr_setCtr, BitVec.add_assoc, ← BitVec.ofNat_add,
      workingCopy]
  rw [block, hcopy, block]

/-- Byte `k` of block `j` is byte `64 j + k` of the keystream (41_batch_generator.md R150). -/
theorem block_getElem?_eq_keystream (ws : Words) (ndr : BitVec 8) (j k : Nat) (hk : k < 64) :
    (block ws ndr j)[k]? = some (keystream ws ndr (64 * j + k)) := by
  have hlt : k < (block ws ndr j).length := by rwa [block_length]
  rw [keystream, show (64 * j + k) / 64 = j by omega, show (64 * j + k) % 64 = k by omega,
    List.getD_eq_getElem?_getD, List.getElem?_eq_getElem hlt, Option.getD_some]

/-- The block at its 64 offsets of the buffer after GENERATE (41_batch_generator.md R146). -/
theorem read_generate_block (c : Config) (ndr : BitVec 8) (st : CipherStream) (j k : Nat)
    (hj : j < c.batch.blocks) (hk : k < 64) :
    Memory.read (generate c ndr st).ksb (64 * j + k) = (block st.words ndr j)[k]? := by
  rw [read_generate, if_pos (by rw [Config.cap]; omega), block_getElem?_eq_keystream _ _ _ _ hk]

/-- `n` successive GENERATEs advance the counter by B each. -/
theorem generate_iterate_words (c : Config) (ndr : BitVec 8) (st : CipherStream) (n : Nat) :
    ((generate c ndr)^[n] st).words =
      Words.setCtr st.words (Words.ctr st.words + BitVec.ofNat 64 (n * c.batch.blocks)) := by
  induction n with
  | zero => simp
  | succ n ih =>
    rw [Function.iterate_succ_apply', generate_words, ih, Words.setCtr_setCtr, Words.ctr_setCtr,
      BitVec.add_assoc, ← BitVec.ofNat_add, Nat.succ_mul]

/-- Byte lane `i` of a word, least significant first (41_batch_generator.md R144). -/
theorem bytesLe32_getElem? (w : Word) (i : Nat) (hi : i < 4) :
    (bytesLe32 w)[i]? = some (BitVec.ofNat 8 (w.toNat / 2 ^ (8 * i))) := by
  rw [← Nat.shiftRight_eq_div_pow]
  interval_cases i <;> rfl

/-- Byte `k` of a little-endian string of words is byte lane `k mod 4` of word `k div 4`. -/
theorem flatMap_bytesLe32_getElem? (l : List Word) (k : Nat) :
    (l.flatMap bytesLe32)[k]? =
      l[k / 4]?.map fun w => BitVec.ofNat 8 (w.toNat / 2 ^ (8 * (k % 4))) := by
  induction l generalizing k with
  | nil => simp
  | cons w l ih =>
    rw [List.flatMap_cons, List.getElem?_append, bytesLe32_length]
    split
    · next hk =>
      rw [bytesLe32_getElem? w k hk, Nat.div_eq_of_lt hk, Nat.mod_eq_of_lt hk]
      rfl
    · next hk =>
      obtain ⟨d, rfl⟩ : ∃ d, k = d + 4 := ⟨k - 4, by omega⟩
      rw [Nat.add_sub_cancel, ih, Nat.add_div_right d (by decide), Nat.add_mod_right,
        List.getElem?_cons_succ]

theorem serialize_getElem? (y : Words) (k : Nat) (hk : k < 64) :
    (serialize y)[k]? = some (BitVec.ofNat 8 (y[k / 4].toNat / 2 ^ (8 * (k % 4)))) := by
  rw [serialize, flatMap_bytesLe32_getElem?, Vector.getElem?_toList,
    Vector.getElem?_eq_getElem (by omega), Option.map_some]

/-- Finalization adds word by word (41_batch_generator.md R143). -/
theorem toWords_finalize_getElem (x w : Rows) (i : Nat) (hi : i < 16) :
    (finalize x w).toWords[i] = x.toWords[i] + w.toWords[i] := by
  interval_cases i <;> rfl

/-- The counter of a new CipherStream is 0 (43_initializer.md R192). -/
theorem ctr_initialWords (key nonce : List Byte) : Words.ctr (initialWords key nonce) = 0 :=
  (by decide : (0 : Word) ++ (0 : Word) = (0 : BitVec 64))

/-- With the buffer empty, nothing of the stream of the State words has been consumed (42_streaming_xor.md
R172). -/
theorem AtPosition.of_empty {s : State} {ws : Words} (hws : s.words = some ws)
    (hempty : s.offset = s.cfg.cap) : AtPosition s ws 0 where
  fresh := fun _ => ⟨hws, hempty⟩
  streaming := fun h => absurd h (by decide)

end Sys2Proof.Machine
end

section
/-! PROOFS. The Batch Block Generator (O37, O38, O39, O40, O41), and the start of a stream (O17). -/

namespace Sys2Proof.Machine

/-- Settles O37: the working copy is S with the counter set to the 64-bit sum. -/
theorem workingCopyHoldsItsCounter : Obligations.WorkingCopyHoldsItsCounter := by
  intro ws j
  refine ⟨?_, Words.sameButCtr_setCtr ws _⟩
  rw [← Words.toNat_ctr, workingCopy, Words.ctr_setCtr, Words.toNat_ctr_add]

/-- Settles O38: the low and the high word are the low and the high half of the 64-bit sum. -/
theorem counterAdvanceCarries : Obligations.CounterAdvanceCarries := by
  intro ws b
  have hset := advanceCounter_eq_setCtr ws b.blocks b.blocks_lt
  have hsum := Words.toNat_ctr_add ws b.blocks
  refine hset ▸ ⟨?_, ?_, Words.ctr_setCtr _ _, Words.sameButCtr_setCtr ws _⟩
  · rw [Words.setCtr_low, BitVec.extractLsb'_toNat, hsum, Nat.shiftRight_zero]
    omega
  · rw [Words.setCtr_high, BitVec.extractLsb'_toNat, hsum, Nat.shiftRight_eq_div_pow]
    omega

/-- Settles O39, by the bytes of a serialized block and the words of its finalization. -/
theorem blockSerializesTheFinalizedWords : Obligations.BlockSerializesTheFinalizedWords := by
  refine fun ws ndr j => ⟨block_length ws ndr j, fun k hk => ?_⟩
  rw [block, serialize_getElem? _ k hk, toWords_finalize_getElem, toWords_ofWords]

/-- Settles O40: what GENERATE leaves in the buffer and in the counter. -/
theorem generateFillsTheBuffer : Obligations.GenerateFillsTheBuffer := by
  intro c ndr st
  refine ⟨read_generate_block c ndr st, fun a ha => ?_, ?_, ?_, rfl⟩
  · rw [read_generate, if_neg (Nat.not_lt.mpr ha)]
  · rw [generate_words, Words.ctr_setCtr]
  · exact generate_words c ndr st ▸ Words.sameButCtr_setCtr _ _

/-- Settles O41: block 0 of the State that `j` batches of one leave is block `j` of the first State. -/
theorem batchWidthsGenerateTheSameBlocks : Obligations.BatchWidthsGenerateTheSameBlocks := by
  intro c1 c4 ndr st h1 h4
  have hblocks1 : c1.batch.blocks = 1 := h1 ▸ rfl
  have hblocks4 : c4.batch.blocks = 4 := h4 ▸ rfl
  refine ⟨?_, fun j k hj hk => ?_⟩
  · rw [generate_words, generate_iterate_words, hblocks1, hblocks4]
  · have hone := read_generate_block c1 ndr ((generate c1 ndr)^[j] st) 0 k (by omega) hk
    rw [generate_iterate_words, block_setCtr_add, hblocks1, Nat.mul_one, Nat.add_zero, Nat.mul_zero,
      Nat.zero_add] at hone
    rw [read_generate_block c4 ndr st j k (by omega) hk, Function.iterate_succ_apply', hone]

/-- Settles O17: both leave the buffer empty, and INIT leaves counter words of 0. -/
theorem initAndWrctrStartAStream : Obligations.InitAndWrctrStartAStream := by
  refine ⟨fun s t ndr hrun hndr h => ?_, fun s t _ hrun hinitd h => ?_⟩
  · obtain ⟨-, ⟨hhalt, -⟩ | ⟨-, hzero, -⟩ | ⟨-, -, rfl⟩⟩ := execInit_next ndr s t h
    · simp [hrun] at hhalt
    · exact absurd hzero hndr
    · exact ⟨_, rfl, .of_empty rfl rfl, ctr_initialWords _ _⟩
  · obtain ⟨-, ⟨hhalt, -⟩ | ⟨-, hunset, -⟩ | ⟨-, ws, -, rfl⟩⟩ := execWrctr_next s t h
    · simp [hrun] at hhalt
    · simp [State.initd, hunset] at hinitd
    · exact ⟨_, rfl, .of_empty rfl rfl⟩

end Sys2Proof.Machine
end

section
/-! SUPPORT. Positions of a stream (42_streaming_xor.md R172) as the loop of APPLY passes them: which byte of
the keystream comes next, and what the loop makes of its input from there. -/

namespace Sys2Proof.Machine

/-- The keystream of a State whose counter is `i` blocks on is the keystream from byte `64 i` on. -/
theorem keystream_setCtr_add (ws : Words) (ndr : BitVec 8) (i n : Nat) :
    keystream (Words.setCtr ws (Words.ctr ws + BitVec.ofNat 64 i)) ndr n =
      keystream ws ndr (64 * i + n) := by
  rw [keystream, block_setCtr_add, keystream, Nat.mul_add_div (by decide), Nat.mul_add_mod]

theorem keystreamFrom_add (ws0 : Words) (ndr : BitVec 8) (n a b : Nat) :
    keystreamFrom ws0 ndr n (a + b) =
      keystreamFrom ws0 ndr n a ++ keystreamFrom ws0 ndr (n + a) b := by
  simp [keystreamFrom, List.range_add, Nat.add_assoc, Function.comp_def]

/-- The XOR of a byte string is that of its first bytes, then that of the rest further on in the stream. -/
theorem xorBytes_keystreamFrom_add (ws0 : Words) (ndr : BitVec 8) (n a b : Nat) (inp : List Byte)
    (ha : a ≤ inp.length) :
    xorBytes inp (keystreamFrom ws0 ndr n (a + b)) =
      xorBytes (inp.take a) (keystreamFrom ws0 ndr n a) ++
        xorBytes (inp.drop a) (keystreamFrom ws0 ndr (n + a) b) := by
  conv_lhs => rw [keystreamFrom_add, ← List.take_append_drop a inp]
  exact List.zipWith_append (by simpa using ha)

/-- XORing twice with the same bytes gives the byte string back (42_streaming_xor.md R177). -/
theorem xorBytes_xorBytes (inp ks : List Byte) (h : inp.length ≤ ks.length) :
    xorBytes (xorBytes inp ks) ks = inp := by
  induction inp generalizing ks with
  | nil => rfl
  | cons x xs ih =>
    cases ks with
    | nil => simp at h
    | cons k ks =>
      have htail := ih ks (by simpa using h)
      simp only [xorBytes, List.zipWith_cons_cons] at htail ⊢
      rw [htail, BitVec.xor_assoc, BitVec.xor_self, BitVec.xor_zero]

/-- The batch of byte `n` of the stream of `ws0` stands in the buffer, and OFFSET is at byte `n`. At `n >= 1`
this is `AtPosition.streaming`; at `n = 0` it is where the loop of APPLY stands after its first refill. -/
structure CipherStream.Streaming (c : Config) (ndr : BitVec 8) (ws0 : Words) (n : Nat)
    (st : CipherStream) : Prop where
  words : st.words = Words.setCtr ws0
    (Words.ctr ws0 + BitVec.ofNat 64 (c.batch.blocks * (1 + n / c.cap)))
  offset : st.offset = n % c.cap
  buffer : ∀ j, j < c.cap →
    Memory.read st.ksb j = some (keystream ws0 ndr (n / c.cap * c.cap + j))

/-- A refill after `q` batches leaves the loop at the first byte of the next one. -/
theorem CipherStream.streaming_refill {c : Config} {ndr : BitVec 8} {ws0 : Words} {st : CipherStream}
    (q : Nat) (hempty : st.offset = c.cap)
    (hwords : st.words =
      Words.setCtr ws0 (Words.ctr ws0 + BitVec.ofNat 64 (c.batch.blocks * q))) :
    (refillIfEmpty c ndr st).Streaming c ndr ws0 (q * c.cap) := by
  rw [refillIfEmpty_of_eq c ndr st hempty]
  have hq : q * c.cap / c.cap = q := Nat.mul_div_cancel q c.cap_pos
  refine ⟨?_, (Nat.mul_mod_left q c.cap).symm, fun j hj => ?_⟩
  · calc (generate c ndr st).words
      _ = Words.setCtr ws0 (Words.ctr ws0 +
            BitVec.ofNat 64 (c.batch.blocks * q + c.batch.blocks)) := by
        rw [generate_words, hwords, Words.setCtr_setCtr, Words.ctr_setCtr, BitVec.add_assoc,
          ← BitVec.ofNat_add]
      _ = _ := by rw [hq, Nat.mul_add, Nat.mul_one, Nat.add_comm c.batch.blocks]
  · calc Memory.read (generate c ndr st).ksb j
      _ = some (keystream ws0 ndr (64 * (c.batch.blocks * q) + j)) := by
        rw [read_generate, if_pos hj, hwords, keystream_setCtr_add]
      _ = _ := by rw [hq, Config.cap, Nat.mul_comm q, Nat.mul_assoc]

/-- Consuming `k` buffered bytes, and refilling the buffer where it is then empty, moves on `k` bytes. -/
theorem CipherStream.Streaming.consume {c : Config} {ndr : BitVec 8} {ws0 : Words} {n : Nat}
    {st : CipherStream} (h : st.Streaming c ndr ws0 n) (k : Nat) (hk : k ≤ c.cap - st.offset) :
    (refillIfEmpty c ndr { st with offset := st.offset + k }).Streaming c ndr ws0 (n + k) := by
  obtain ⟨hwords, hoffset, hbuffer⟩ := h
  have hlt : n % c.cap < c.cap := Nat.mod_lt n c.cap_pos
  have hdiv : n % c.cap + c.cap * (n / c.cap) = n := Nat.mod_add_div n c.cap
  by_cases hempty : st.offset + k = c.cap
  · have hn : n + k = (1 + n / c.cap) * c.cap := by
      rw [Nat.add_mul, Nat.one_mul, Nat.mul_comm (n / c.cap)]
      omega
    rw [hn]
    exact streaming_refill _ hempty hwords
  · obtain ⟨hquot, hrem⟩ : (n + k) / c.cap = n / c.cap ∧ (n + k) % c.cap = n % c.cap + k :=
      (Nat.div_mod_unique c.cap_pos).mpr ⟨by omega, by omega⟩
    rw [refillIfEmpty_of_ne c ndr _ hempty]
    exact ⟨by rw [hquot, ← hwords], by rw [hrem, ← hoffset], by rwa [hquot]⟩

/-- The buffered bytes read as the keystream from the stream position on. -/
theorem CipherStream.Streaming.readBytes {c : Config} {ndr : BitVec 8} {ws0 : Words} {n : Nat}
    {st : CipherStream} (h : st.Streaming c ndr ws0 n) (k : Nat) (hk : k ≤ c.cap - st.offset) :
    st.ksb.readBytes st.offset k = some (keystreamFrom ws0 ndr n k) := by
  refine Memory.readBytes_eq _ _ _ _ (keystreamFrom_length ..) fun i hi => ?_
  have hn : n / c.cap * c.cap + (st.offset + i) = n + i := by
    rw [h.offset, ← Nat.add_assoc, Nat.div_add_mod']
  rw [h.buffer _ (by omega), hn, keystreamFrom_getElem? _ _ _ _ _ hi]

/-- From a stream position the loop of APPLY XORs its input with the keystream and moves on by its length: an
iteration ends with its input or at the end of the batch. -/
theorem applyLoop_of_streaming {c : Config} {ndr : BitVec 8} {ws0 : Words} {n : Nat}
    {st : CipherStream} (fuel : Nat) (left out : List Byte) (h : st.Streaming c ndr ws0 n)
    (hfuel : left.length ≤ fuel) :
    ∃ st', applyLoop c ndr fuel left out st =
        .ok (out ++ xorBytes left (keystreamFrom ws0 ndr n left.length), st') ∧
      st'.Streaming c ndr ws0 (n + left.length) := by
  induction fuel generalizing left out st n with
  | zero =>
    obtain rfl : left = [] := List.length_eq_zero_iff.mp (by omega)
    exact ⟨st, by simp [applyLoop_nil, xorBytes], h⟩
  | succ fuel ih =>
    by_cases hleft : left = []
    · subst hleft
      exact ⟨st, by simp [applyLoop_nil, xorBytes], h⟩
    · have hpos : 0 < left.length := List.length_pos_iff.mpr hleft
      have hoffset : st.offset < c.cap := h.offset ▸ Nat.mod_lt n c.cap_pos
      generalize hk : min (c.cap - st.offset) left.length = k
      obtain ⟨rest, hrest⟩ : ∃ rest, left.length = k + rest := ⟨left.length - k, by omega⟩
      have hdrop : (left.drop k).length = rest := by rw [List.length_drop]; omega
      obtain ⟨st', hloop, hst'⟩ := ih (left.drop k)
        (out ++ xorBytes (left.take k) (keystreamFrom ws0 ndr n k)) (h.consume k (by omega))
        (by omega)
      rw [hdrop] at hloop hst'
      refine ⟨st', ?_, by rwa [hrest, ← Nat.add_assoc]⟩
      rw [applyLoop_iteration c ndr fuel left out _ st hleft (hk ▸ h.readBytes k (by omega)), hk,
        hloop, hrest, xorBytes_keystreamFrom_add _ _ _ _ _ _ (by omega), List.append_assoc]

/-- Byte `n` of the stream of `ws0` is the next one: the buffer is empty with nothing consumed, or the batch of
byte `n` stands in it. -/
def CipherStream.NextByte (c : Config) (ndr : BitVec 8) (ws0 : Words) (n : Nat)
    (st : CipherStream) : Prop :=
  (n = 0 ∧ st.words = ws0 ∧ st.offset = c.cap) ∨ st.Streaming c ndr ws0 n

/-- From next byte `n`, `len` bytes on: an APPLY of no bytes leaves even an empty buffer as it is
(42_streaming_xor.md R173), any other leaves the batch of the next byte in the buffer (R174). -/
def CipherStream.Advanced (c : Config) (ndr : BitVec 8) (ws0 : Words) (n len : Nat)
    (st st' : CipherStream) : Prop :=
  (len = 0 ∧ st' = st) ∨ (1 ≤ len ∧ st'.Streaming c ndr ws0 (n + len))

/-- The loop of APPLY from any stream position, within its bound of LEN + 1 iterations. -/
theorem applyLoop_of_nextByte {c : Config} {ndr : BitVec 8} {ws0 : Words} {n : Nat}
    {st : CipherStream} (left : List Byte) (h : st.NextByte c ndr ws0 n) :
    ∃ st', applyLoop c ndr (left.length + 1) left [] st =
        .ok (xorBytes left (keystreamFrom ws0 ndr n left.length), st') ∧
      st.Advanced c ndr ws0 n left.length st' := by
  by_cases hleft : left = []
  · subst hleft
    exact ⟨st, applyLoop_nil .., .inl ⟨rfl, rfl⟩⟩
  · have hpos : 1 ≤ left.length := List.length_pos_iff.mpr hleft
    obtain ⟨rfl, hwords, hempty⟩ | hstreaming := h
    · have hnone : min (c.cap - st.offset) left.length = 0 := by omega
      have hfirst : (refillIfEmpty c ndr st).Streaming c ndr ws0 0 := by
        simpa using CipherStream.streaming_refill 0 hempty (by simp [hwords])
      obtain ⟨st', hloop, hst'⟩ :=
        applyLoop_of_streaming left.length left [] hfirst (Nat.le_refl _)
      refine ⟨st', ?_, .inr ⟨hpos, hst'⟩⟩
      rw [applyLoop_iteration c ndr _ left [] [] st hleft (hnone ▸ rfl), hnone]
      exact hloop
    · obtain ⟨st', hloop, hst'⟩ :=
        applyLoop_of_streaming (left.length + 1) left [] hstreaming (Nat.le_succ _)
      exact ⟨st', hloop, .inr ⟨hpos, hst'⟩⟩

end Sys2Proof.Machine
end

section
/-! SUPPORT. APPLY, case by case, and from a stream position. -/

namespace Sys2Proof.Machine

/-- APPLY with too few data-in bytes (70_reset_and_hazards.md R264). -/
theorem execApply_of_starved {s : State} {len : BitVec 24} (hlen : s.dataIn.length < len.toNat) :
    exec (.apply len) s = .fault .stuckDataIn :=
  withDataIn_of_lt _ _ _ hlen

/-- APPLY while halted (60_exceptions.md R227). -/
theorem execApply_of_halt {s : State} {len : BitVec 24} (hlen : len.toNat ≤ s.dataIn.length)
    (hhalt : s.halt = true) :
    exec (.apply len) s = .next { s with dataIn := s.dataIn.drop len.toNat } := by
  change execApply len s = _
  rw [execApply, withDataIn_of_le _ _ _ hlen]
  simp [hhalt]

/-- APPLY before INIT (60_exceptions.md R221). -/
theorem execApply_of_unset {s : State} {len : BitVec 24} (hlen : len.toNat ≤ s.dataIn.length)
    (hrun : s.halt = false) (hws : s.words = none) :
    exec (.apply len) s = .next (State.raiseError .notInitialized (encode (.apply len))
      { s with dataIn := s.dataIn.drop len.toNat }) := by
  change execApply len s = _
  rw [execApply, withDataIn_of_le _ _ _ hlen]
  simp [hrun, hws]

/-- The bytes the loop makes are sent, and the CipherStream it leaves is kept. -/
theorem execApply_of_loop {s : State} {len : BitVec 24} (hlen : len.toNat ≤ s.dataIn.length)
    (hrun : s.halt = false) {ws : Words} (hws : s.words = some ws) {out : List Byte}
    {st : CipherStream}
    (hloop : applyLoop s.cfg s.ndr (len.toNat + 1) (s.dataIn.take len.toNat) []
      ⟨ws, s.ksb, s.offset⟩ = .ok (out, st)) :
    exec (.apply len) s = doutWrite out
      (State.setCipherStream st { s with dataIn := s.dataIn.drop len.toNat }) := by
  change execApply len s = _
  rw [execApply, withDataIn_of_le _ _ _ hlen]
  simp [hrun, hws, hloop]

/-- A running APPLY from next byte `n` of a stream: what it sends, and how far it moves on. -/
theorem execApply_of_nextByte {s : State} {len : BitVec 24} (hlen : len.toNat ≤ s.dataIn.length)
    (hrun : s.halt = false) {ws : Words} (hws : s.words = some ws) {ws0 : Words} {n : Nat}
    (h : CipherStream.NextByte s.cfg s.ndr ws0 n ⟨ws, s.ksb, s.offset⟩) :
    ∃ st, CipherStream.Advanced s.cfg s.ndr ws0 n len.toNat ⟨ws, s.ksb, s.offset⟩ st ∧
      exec (.apply len) s =
        doutWrite (xorBytes (s.dataIn.take len.toNat) (keystreamFrom ws0 s.ndr n len.toNat))
          (State.setCipherStream st { s with dataIn := s.dataIn.drop len.toNat }) := by
  have htake : (s.dataIn.take len.toNat).length = len.toNat := List.length_take_of_le hlen
  obtain ⟨st, hloop, hst⟩ := applyLoop_of_nextByte (s.dataIn.take len.toNat) h
  rw [htake] at hloop hst
  exact ⟨st, hst, execApply_of_loop hlen hrun hws hloop⟩

theorem AtPosition.nextByte {s : State} {ws0 : Words} {n : Nat} (h : AtPosition s ws0 n) :
    ∃ ws, s.words = some ws ∧
      CipherStream.NextByte s.cfg s.ndr ws0 n ⟨ws, s.ksb, s.offset⟩ := by
  by_cases hn : n = 0
  · obtain ⟨hws, hempty⟩ := h.fresh hn
    exact ⟨ws0, hws, .inl ⟨hn, rfl, hempty⟩⟩
  · obtain ⟨hws, hoffset, hbuffer⟩ := h.streaming (Nat.one_le_iff_ne_zero.mpr hn)
    exact ⟨_, hws, .inr ⟨rfl, hoffset, hbuffer⟩⟩

/-- The parts of the state that a stream position speaks of. -/
def State.streamParts (s : State) : Config × Option Words × Memory × Nat × BitVec 8 :=
  (s.cfg, s.words, s.ksb, s.offset, s.ndr)

theorem AtPosition.congr {s t : State} {ws0 : Words} {n : Nat} (h : AtPosition s ws0 n)
    (hparts : t.streamParts = s.streamParts) : AtPosition t ws0 n := by
  simp only [State.streamParts, Prod.mk.injEq] at hparts
  obtain ⟨hcfg, hwords, hksb, hoffset, hndr⟩ := hparts
  exact ⟨by rw [hcfg, hwords, hoffset]; exact h.fresh,
    by rw [hcfg, hwords, hksb, hoffset, hndr]; exact h.streaming⟩

/-- The state that keeps the CipherStream `len` bytes on is at the position `len` bytes on. -/
theorem AtPosition.setCipherStream {s : State} {ws ws0 : Words} {n len : Nat}
    (h : AtPosition s ws0 n) (hws : s.words = some ws) {st : CipherStream}
    (hst : CipherStream.Advanced s.cfg s.ndr ws0 n len ⟨ws, s.ksb, s.offset⟩ st) :
    AtPosition (s.setCipherStream st) ws0 (n + len) := by
  obtain ⟨rfl, rfl⟩ | ⟨hlen, hwords, hoffset, hbuffer⟩ := hst
  · exact h.congr (by simp [State.streamParts, hws])
  · exact ⟨fun hzero => by omega, fun _ => ⟨congrArg some hwords, hoffset, hbuffer⟩⟩

/-- APPLY from a stream position, up to the host's acceptance of its bytes. -/
theorem AtPosition.execApply {s : State} {ws0 : Words} {n : Nat} (h : AtPosition s ws0 n)
    (hrun : s.halt = false) {len : BitVec 24} (hlen : len.toNat ≤ s.dataIn.length) :
    ∃ st, AtPosition (s.setCipherStream st) ws0 (n + len.toNat) ∧
      exec (.apply len) s =
        doutWrite (xorBytes (s.dataIn.take len.toNat) (keystreamFrom ws0 s.ndr n len.toNat))
          (State.setCipherStream st { s with dataIn := s.dataIn.drop len.toNat }) := by
  obtain ⟨ws, hws, hnext⟩ := h.nextByte
  obtain ⟨st, hst, happly⟩ := execApply_of_nextByte hlen hrun hws hnext
  exact ⟨st, h.setCipherStream hws hst, happly⟩

/-- Sending no bytes needs no acceptance and changes nothing. -/
theorem doutWrite_nil (s : State) : doutWrite [] s = .next s := by
  have hroom : s.accepts 0 = true := by cases h : s.outRoom <;> simp [State.accepts, h]
  rw [doutWrite_of_accepts [] s hroom]
  simp [State.sent]

end Sys2Proof.Machine
end

section
/-! PROOFS. APPLY as a function of the stream position, where it does not run, and of no bytes (O16, O13,
O14). -/

namespace Sys2Proof.Machine

/-- Settles O16, by the loop of APPLY from a stream position. -/
theorem applyOutputsTheKeystreamXor : Obligations.ApplyOutputsTheKeystreamXor := by
  intro s ws0 n len inp rest h hrun hdin hinp hroom
  have htake : s.dataIn.take len.toNat = inp := by rw [hdin, ← hinp, List.take_left]
  have hdrop : s.dataIn.drop len.toNat = rest := by rw [hdin, ← hinp, List.drop_left]
  obtain ⟨st, hpos, happly⟩ := h.execApply hrun (len := len) (by simp [hdin, hinp])
  have hsent : (xorBytes inp (keystreamFrom ws0 s.ndr n len.toNat)).length = len.toNat := by
    simp [hinp]
  rw [htake, doutWrite_of_accepts _ _ (hsent.symm ▸ hroom)] at happly
  exact ⟨_, happly, rfl, hpos.congr rfl, hdrop, rfl, rfl⟩

theorem encode_apply_eq_ofNat (len : BitVec 24) :
    encode (.apply len) = BitVec.ofNat 32 (256 * len.toNat + 2) := by
  rw [← toNat_encode_apply, BitVec.ofNat_toNat, BitVec.setWidth_eq]

/-- Settles O13: the two cases of APPLY before its loop. -/
theorem applyRefusedKeepsTheStream : Obligations.ApplyRefusedKeepsTheStream := by
  intro s len hlen
  refine ⟨fun hhalt => execApply_of_halt hlen hhalt, fun hrun hws => ?_⟩
  rw [execApply_of_unset hlen hrun hws, encode_apply_eq_ofNat]
  rfl

/-- Settles O14: the loop over no bytes makes none and leaves the CipherStream. -/
theorem applyOfNoBytesChangesNothing : Obligations.ApplyOfNoBytesChangesNothing := by
  intro s hrun
  refine ⟨fun hinitd => ?_, fun hunset => ?_⟩
  · obtain ⟨ws, hws⟩ := State.words_isSome_of_initd hinitd
    rw [execApply_of_loop (Nat.zero_le _) hrun hws (applyLoop_nil ..), doutWrite_nil]
    simp [State.setCipherStream, ← hws]
  · have hws : s.words = none := by simpa [State.initd] using hunset
    rw [execApply_of_unset (Nat.zero_le _) hrun hws]
    rfl

end Sys2Proof.Machine
end

section
/-! SUPPORT. Two APPLY commands in a row: the CipherStream they leave is a function of the stream position. -/

namespace Sys2Proof.Machine

/-- Every CipherStream of the invariant stands at a position of a stream: that of its own words where the
buffer is empty, else that of the State before the last counter advance. -/
theorem CipherStream.Inv.nextByte {c : Config} {ndr : BitVec 8} {st : CipherStream}
    (h : st.Inv c ndr) : ∃ ws0 n, st.NextByte c ndr ws0 n := by
  by_cases hempty : st.offset = c.cap
  · exact ⟨st.words, 0, .inl ⟨rfl, rfl, hempty⟩⟩
  · have hlt : st.offset < c.cap := Nat.lt_of_le_of_ne h.offset hempty
    have hquot : st.offset / c.cap = 0 := Nat.div_eq_of_lt hlt
    refine ⟨st.batchWords c, st.offset, .inr ⟨?_, (Nat.mod_eq_of_lt hlt).symm, fun j hj => ?_⟩⟩
    · simp [CipherStream.batchWords, hquot]
    · rw [hquot, Nat.zero_mul, Nat.zero_add, h.buffer hlt j hj]

theorem CipherStream.Advanced.nextByte {c : Config} {ndr : BitVec 8} {ws0 : Words} {n len : Nat}
    {st st' : CipherStream} (h : st.Advanced c ndr ws0 n len st') (hst : st.NextByte c ndr ws0 n) :
    st'.NextByte c ndr ws0 (n + len) := by
  obtain ⟨rfl, rfl⟩ | ⟨-, hst'⟩ := h
  · exact hst
  · exact .inr hst'

theorem CipherStream.Advanced.trans {c : Config} {ndr : BitVec 8} {ws0 : Words} {n a b : Nat}
    {st st1 st2 : CipherStream} (h1 : st.Advanced c ndr ws0 n a st1)
    (h2 : st1.Advanced c ndr ws0 (n + a) b st2) : st.Advanced c ndr ws0 n (a + b) st2 := by
  obtain ⟨rfl, rfl⟩ | ⟨hb, h2⟩ := h2
  · exact h1
  · exact .inr ⟨by omega, by rwa [← Nat.add_assoc]⟩

/-- Buffers in canonical form that hold the same batch are the same. -/
theorem CipherStream.Streaming.unique {c : Config} {ndr : BitVec 8} {ws0 : Words} {n : Nat}
    {st st' : CipherStream} (h : st.Streaming c ndr ws0 n) (h' : st'.Streaming c ndr ws0 n)
    (hwf : Memory.wf c.cap st.ksb = true) (hwf' : Memory.wf c.cap st'.ksb = true) : st = st' := by
  obtain ⟨words, ksb, offset⟩ := st
  obtain ⟨words', ksb', offset'⟩ := st'
  obtain ⟨rfl, rfl, hbuffer⟩ := h
  obtain ⟨rfl, rfl, hbuffer'⟩ := h'
  obtain rfl : ksb = ksb' := Memory.ext_of_wf ksb ksb' c.cap hwf hwf' fun j hj =>
    (hbuffer j hj).trans (hbuffer' j hj).symm
  rfl

/-- The CipherStream `len` bytes on is determined. -/
theorem CipherStream.Advanced.unique {c : Config} {ndr : BitVec 8} {ws0 : Words} {n len : Nat}
    {st st1 st2 : CipherStream} (h1 : st.Advanced c ndr ws0 n len st1)
    (h2 : st.Advanced c ndr ws0 n len st2) (hwf1 : Memory.wf c.cap st1.ksb = true)
    (hwf2 : Memory.wf c.cap st2.ksb = true) : st1 = st2 := by
  obtain ⟨hzero, rfl⟩ | ⟨hpos, h1⟩ := h1
  · obtain ⟨-, rfl⟩ | ⟨hpos, -⟩ := h2
    · rfl
    · omega
  · obtain ⟨hzero, -⟩ | ⟨-, h2⟩ := h2
    · omega
    · exact h1.unique h2 hwf1 hwf2

/-- The state after an APPLY of `len` bytes that sends `out` and leaves the CipherStream `st`. -/
def State.applied (len : Nat) (out : List Byte) (st : CipherStream) (s : State) : State :=
  State.sent out (State.setCipherStream st { s with dataIn := s.dataIn.drop len })

theorem State.applied_applied (s : State) (a b : Nat) (out1 out2 : List Byte)
    (st1 st2 : CipherStream) :
    (s.applied a out1 st1).applied b out2 st2 = s.applied (a + b) (out1 ++ out2) st2 := by
  simp [State.applied, State.sent, State.setCipherStream, Function.comp_def, Nat.sub_sub]

/-- An APPLY of `len` bytes completes from the state: what `Obligations.ApplyCompletes` asks for. -/
structure State.CanApply (s : State) (len : Nat) : Prop where
  inv : s.Inv
  running : s.halt = false
  initd : s.initd = true
  offered : len ≤ s.dataIn.length
  room : s.accepts len = true

/-- A host that accepts `a + b` bytes accepts `a`, and `b` after them. -/
theorem accepts_add {s : State} {a b : Nat} (h : s.accepts (a + b) = true) :
    s.accepts a = true ∧ ∀ out : List Byte, out.length = a → (s.sent out).accepts b = true := by
  cases hroom : s.outRoom with
  | none => exact ⟨accepts_none _ _ hroom, fun out _ => accepts_none _ _ (by simp [hroom])⟩
  | some room =>
    rw [accepts_some _ _ _ hroom, decide_eq_true_eq] at h
    refine ⟨by rw [accepts_some _ _ _ hroom, decide_eq_true_eq]; omega, fun out hout => ?_⟩
    rw [accepts_some b (room - a) _ (by simp [hroom, hout]), decide_eq_true_eq]
    omega

/-- The bytes that an APPLY of `len` bytes sends from next byte `n` of the stream of `ws0`. -/
def State.cipherBytes (s : State) (ws0 : Words) (n len : Nat) : List Byte :=
  xorBytes (s.dataIn.take len) (keystreamFrom ws0 s.ndr n len)

theorem State.cipherBytes_length {s : State} {len : Nat} (h : len ≤ s.dataIn.length) (ws0 : Words)
    (n : Nat) : (s.cipherBytes ws0 n len).length = len := by
  simp [State.cipherBytes, h]

/-- The bytes of one long APPLY are those of two. -/
theorem State.cipherBytes_add {s : State} {a b : Nat} (h : a + b ≤ s.dataIn.length) (ws0 : Words)
    (n : Nat) (out : List Byte) (st : CipherStream) :
    s.cipherBytes ws0 n (a + b) =
      s.cipherBytes ws0 n a ++ (s.applied a out st).cipherBytes ws0 (n + a) b := by
  rw [State.cipherBytes, xorBytes_keystreamFrom_add _ _ _ _ _ _ (by simp; omega), List.take_take,
    Nat.min_eq_left (Nat.le_add_right a b), List.drop_take, Nat.add_sub_cancel_left]
  rfl

/-- APPLY from the invariant, from next byte `n` of a stream on. -/
theorem State.CanApply.execApply {s : State} {len : BitVec 24} (h : s.CanApply len.toNat)
    {ws ws0 : Words} {n : Nat} (hws : s.words = some ws)
    (hnext : CipherStream.NextByte s.cfg s.ndr ws0 n ⟨ws, s.ksb, s.offset⟩) :
    ∃ st, CipherStream.Advanced s.cfg s.ndr ws0 n len.toNat ⟨ws, s.ksb, s.offset⟩ st ∧
      exec (.apply len) s = .next (s.applied len.toNat (s.cipherBytes ws0 n len.toNat) st) ∧
      Memory.wf s.cfg.cap st.ksb = true := by
  obtain ⟨st, hst, happly⟩ := execApply_of_nextByte h.offered h.running hws hnext
  rw [doutWrite_of_accepts _ _ ((s.cipherBytes_length h.offered ws0 n).symm ▸ h.room)] at happly
  exact ⟨st, hst, happly, (exec_keeps_inv _ h.inv happly).memory⟩

/-- An APPLY of a part leaves a state from which the APPLY of the rest answers what one APPLY of all does. -/
theorem execApply_split {s : State} {a b total : BitVec 24} (h : s.CanApply total.toNat)
    (hsum : a.toNat + b.toNat = total.toNat) :
    ∃ t, exec (.apply a) s = .next t ∧ t.CanApply b.toNat ∧
      exec (.apply b) t = exec (.apply total) s := by
  obtain ⟨ws, hws⟩ := State.words_isSome_of_initd h.initd
  obtain ⟨ws0, n, hnext⟩ := (h.inv.cipherStream hws).nextByte
  have ⟨hinv, hrun, hinitd, hlen, hroom⟩ := h
  rw [← hsum] at hlen hroom
  obtain ⟨hroomA, hroomB⟩ := accepts_add hroom
  obtain ⟨st1, hst1, hexec1, -⟩ :=
    State.CanApply.execApply (len := a) ⟨hinv, hrun, hinitd, by omega, hroomA⟩ hws hnext
  have hcan : (s.applied a.toNat (s.cipherBytes ws0 n a.toNat) st1).CanApply b.toNat :=
    ⟨exec_keeps_inv _ hinv hexec1, hrun, rfl, by simp [State.applied]; omega,
      hroomB _ (s.cipherBytes_length (by omega) ws0 n)⟩
  obtain ⟨st2, hst2, hexec2, hwf2⟩ := hcan.execApply rfl (hst1.nextByte hnext)
  obtain ⟨st', hst', hexec, hwf'⟩ := h.execApply hws hnext
  rw [← hsum] at hst' hexec
  obtain rfl : st2 = st' := (hst1.trans hst2).unique hst' hwf2 hwf'
  refine ⟨_, hexec1, hcan, ?_⟩
  rw [hexec2, hexec, State.applied_applied, ← State.cipherBytes_add hlen]

end Sys2Proof.Machine
end

section
/-! PROOFS. Chunking, and APPLY as its own inverse (O42, O43). -/

namespace Sys2Proof.Machine

/-- Settles O42, by induction on the list of lengths: the first APPLY, then one APPLY of the rest. -/
theorem chunkingIsInvisible : Obligations.ChunkingIsInvisible := by
  intro s lens
  induction lens generalizing s with
  | nil =>
    intro total _ hrun hinitd hsum _ _
    obtain rfl : total = 0 := BitVec.eq_of_toNat_eq hsum.symm
    exact ⟨s, rfl, (applyOfNoBytesChangesNothing s hrun).1 hinitd⟩
  | cons len lens ih =>
    intro total hinv hrun hinitd hsum hlen hroom
    rw [List.map_cons, List.sum_cons] at hsum
    have hrest : (total - len).toNat = (lens.map BitVec.toNat).sum := by
      rw [BitVec.toNat_sub_of_le (BitVec.le_def.mpr (by omega))]
      omega
    obtain ⟨t, hfirst, hcan, hsplit⟩ := execApply_split (a := len) (b := total - len)
      ⟨hinv, hrun, hinitd, hlen, hroom⟩ (by omega)
    obtain ⟨u, hall, hone⟩ := ih t (total - len) hcan.inv hcan.running hcan.initd hrest.symm
      hcan.offered hcan.room
    refine ⟨u, ?_, hsplit.symm.trans hone⟩
    simp only [List.map_cons, runAll, hfirst, hall]

/-- INIT with its 40 bytes offered and a legal round count (43_initializer.md R192). -/
theorem execInit_of_run {s : State} {ndr : BitVec 8} {key nonce rest : List Byte} (hndr : ndr ≠ 0)
    (hkey : key.length = 32) (hnonce : nonce.length = 8) (hrun : s.halt = false)
    (hdin : s.dataIn = key ++ nonce ++ rest) :
    exec (.init ndr) s =
      .next (State.loadCipherStream (initialWords key nonce) ndr { s with dataIn := rest }) := by
  have h40 : (key ++ nonce).length = 40 := by simp [hkey, hnonce]
  change execInit ndr s = _
  rw [execInit, withDataIn_of_le _ _ _ (by simp [hdin, hkey, hnonce]; omega), hdin, ← h40, List.take_left,
    List.drop_left, ← hkey, List.take_left, List.drop_left]
  simp only [hrun, Bool.false_eq_true, if_false, if_neg hndr]

/-- INIT and then APPLY XOR the input with the keystream of the new CipherStream, whatever the build. -/
theorem runAll_init_apply {s : State} {ndr : BitVec 8} {len : BitVec 24}
    {key nonce inp rest : List Byte} (hndr : ndr ≠ 0) (hkey : key.length = 32)
    (hnonce : nonce.length = 8) (hinp : inp.length = len.toNat) (hrun : s.halt = false)
    (hroom : s.accepts len.toNat = true) (hdin : s.dataIn = key ++ nonce ++ inp ++ rest) :
    ∃ t, runAll [.init ndr, .apply len] s = .next t ∧
      t.dataOut = s.dataOut ++
        xorBytes inp (keystreamFrom (initialWords key nonce) ndr 0 len.toNat) := by
  have hinit := execInit_of_run hndr hkey hnonce hrun (hdin.trans (List.append_assoc ..))
  obtain ⟨t, happly, hout, -⟩ := applyOutputsTheKeystreamXor
    (State.loadCipherStream (initialWords key nonce) ndr { s with dataIn := inp ++ rest })
    (initialWords key nonce) 0 len inp rest (.of_empty rfl rfl) hrun rfl hinp hroom
  refine ⟨t, ?_, hout⟩
  simp only [runAll, hinit, happly]

/-- Settles O43: both sides XOR with the same keystream. -/
theorem applyIsSelfInverse : Obligations.ApplyIsSelfInverse := by
  intro s1 ndr len key nonce plain r1 hndr hkey hnonce hplain hrun1 hroom1 hdin1
  obtain ⟨t1, hrunAll1, hout1⟩ := runAll_init_apply hndr hkey hnonce hplain hrun1 hroom1 hdin1
  have hcipher : (xorBytes plain
      (keystreamFrom (initialWords key nonce) ndr 0 len.toNat)).length = len.toNat := by
    simp [hplain]
  refine ⟨t1, _, hrunAll1, hout1, hcipher, fun s2 r2 hrun2 hroom2 hdin2 => ?_⟩
  obtain ⟨t2, hrunAll2, hout2⟩ := runAll_init_apply hndr hkey hnonce hcipher hrun2 hroom2 hdin2
  rw [xorBytes_xorBytes _ _ (by simp [hplain])] at hout2
  exact ⟨t2, hrunAll2, hout2⟩

end Sys2Proof.Machine
end

section
/-! SUPPORT. A B = 1 and a B = 4 engine side by side (42_streaming_xor.md R178): what each update and each
command does to both. -/

namespace Sys2Proof.Machine

/-- At every position of a stream the State words are the stream's own, but for the counter. -/
theorem AtPosition.exists_words {s : State} {ws0 : Words} {n : Nat} (h : AtPosition s ws0 n) :
    ∃ v, s.words = some (Words.setCtr ws0 v) := by
  by_cases hn : n = 0
  · exact ⟨Words.ctr ws0, by rw [(h.fresh hn).1, Words.setCtr_ctr]⟩
  · exact ⟨_, (h.streaming (Nat.one_le_iff_ne_zero.mpr hn)).1⟩

/-- Both uninitialized, or both at one position of one stream: `AlikeButForWidth.stream`. -/
def SameStream (s1 s4 : State) : Prop :=
  (s1.words = none ∧ s4.words = none) ∨ ∃ ws0 n, AtPosition s1 ws0 n ∧ AtPosition s4 ws0 n

theorem SameStream.congr {s1 s4 t1 t4 : State} (h : SameStream s1 s4)
    (h1 : t1.streamParts = s1.streamParts) (h4 : t4.streamParts = s4.streamParts) :
    SameStream t1 t4 := by
  obtain ⟨hnone1, hnone4⟩ | ⟨ws0, n, hpos1, hpos4⟩ := h
  · simp only [State.streamParts, Prod.mk.injEq] at h1 h4
    obtain ⟨-, hwords1, -⟩ := h1
    obtain ⟨-, hwords4, -⟩ := h4
    exact .inl ⟨hwords1.trans hnone1, hwords4.trans hnone4⟩
  · exact .inr ⟨ws0, n, hpos1.congr h1, hpos4.congr h4⟩

theorem SameStream.of_empty {s1 s4 : State} {ws : Words} (hws1 : s1.words = some ws)
    (hws4 : s4.words = some ws) (hempty1 : s1.offset = s1.cfg.cap)
    (hempty4 : s4.offset = s4.cfg.cap) : SameStream s1 s4 :=
  .inr ⟨ws, 0, .of_empty hws1 hempty1, .of_empty hws4 hempty4⟩

namespace AlikeButForWidth

variable {s1 s4 : State}

theorem initd (h : AlikeButForWidth s1 s4) : s4.initd = s1.initd := by
  obtain ⟨hnone1, hnone4⟩ | ⟨ws0, n, hpos1, hpos4⟩ := h.stream
  · rw [State.initd, State.initd, hnone1, hnone4]
  · obtain ⟨v1, hws1⟩ := hpos1.exists_words
    obtain ⟨v4, hws4⟩ := hpos4.exists_words
    rw [State.initd, State.initd, hws1, hws4]
    rfl

/-! ### Updates -/

theorem dropDataIn (h : AlikeButForWidth s1 s4) (n : Nat) :
    AlikeButForWidth { s1 with dataIn := s1.dataIn.drop n }
      { s4 with dataIn := s4.dataIn.drop n } :=
  { h with dataIn := congrArg (List.drop n) h.dataIn, stream := SameStream.congr h.stream rfl rfl }

theorem dropCommand (h : AlikeButForWidth s1 s4) (rest : List Word) :
    AlikeButForWidth { s1 with cmdIn := rest } { s4 with cmdIn := rest } :=
  { h with cmdIn := rfl, stream := SameStream.congr h.stream rfl rfl }

theorem sent (h : AlikeButForWidth s1 s4) (bytes : List Byte) :
    AlikeButForWidth (s1.sent bytes) (s4.sent bytes) :=
  { h with
    dataOut := congrArg (· ++ bytes) h.dataOut
    outRoom := congrArg (Option.map fun room => room - bytes.length) h.outRoom
    stream := SameStream.congr h.stream rfl rfl }

theorem raiseError (h : AlikeButForWidth s1 s4) (c : Cause) (w : Word) :
    AlikeButForWidth (s1.raiseError c w) (s4.raiseError c w) :=
  { h with halt := rfl, cause := rfl, errcmd := rfl, stream := SameStream.congr h.stream rfl rfl }

theorem refuseCommand (h : AlikeButForWidth s1 s4) (c : Cause) (w : Word) :
    AlikeButForWidth (s1.refuseCommand c w) (s4.refuseCommand c w) := by
  cases hhalt : s1.halt with
  | true =>
    rwa [refuseCommand_halted _ _ _ hhalt, refuseCommand_halted _ _ _ (h.halt.trans hhalt)]
  | false =>
    rw [refuseCommand_running _ _ _ hhalt, refuseCommand_running _ _ _ (h.halt.trans hhalt)]
    exact h.raiseError c w

theorem loadCipherStream (h : AlikeButForWidth s1 s4) (ws : Words) (ndr : BitVec 8) :
    AlikeButForWidth (s1.loadCipherStream ws ndr) (s4.loadCipherStream ws ndr) :=
  { h with ndr := rfl, stream := SameStream.of_empty rfl rfl rfl rfl }

/-- The counter write discards the one difference of the words. -/
theorem writeCounter (h : AlikeButForWidth s1 s4) (ws0 : Words) (v1 v4 v : BitVec 64) :
    AlikeButForWidth (s1.writeCounter (Words.setCtr ws0 v1) v)
      (s4.writeCounter (Words.setCtr ws0 v4) v) :=
  { h with stream := SameStream.of_empty (ws := Words.setCtr ws0 v) (by simp) (by simp) rfl rfl }

/-- Both keep the CipherStream of the same position. -/
theorem setCipherStream (h : AlikeButForWidth s1 s4) {ws0 : Words} {m : Nat}
    {st1 st4 : CipherStream} (hpos1 : AtPosition (s1.setCipherStream st1) ws0 m)
    (hpos4 : AtPosition (s4.setCipherStream st4) ws0 m) :
    AlikeButForWidth (s1.setCipherStream st1) (s4.setCipherStream st4) :=
  { h with stream := .inr ⟨ws0, m, hpos1, hpos4⟩ }

/-! ### The byte streams -/

theorem accepts (h : AlikeButForWidth s1 s4) (n : Nat) : s4.accepts n = s1.accepts n := by
  rw [State.accepts, State.accepts, h.outRoom]

theorem doutWrite (h : AlikeButForWidth s1 s4) (bytes : List Byte) :
    AlikeResults (doutWrite bytes s1) (doutWrite bytes s4) := by
  have hroom := h.accepts bytes.length
  cases hacc : s1.accepts bytes.length with
  | true =>
    rw [doutWrite_of_accepts _ _ hacc, doutWrite_of_accepts _ _ (hroom.trans hacc)]
    exact h.sent bytes
  | false =>
    rw [doutWrite_of_not_accepts _ _ hacc, doutWrite_of_not_accepts _ _ (hroom.trans hacc)]
    exact rfl

/-- Both wait, or both have the same bytes. -/
theorem withDataIn (h : AlikeButForWidth s1 s4) (n : Nat) {k : List Byte → State → Result}
    (hk : ∀ (bytes : List Byte) (t1 t4 : State), AlikeButForWidth t1 t4 →
      AlikeResults (k bytes t1) (k bytes t4)) :
    AlikeResults (withDataIn n s1 k) (withDataIn n s4 k) := by
  by_cases hn : n ≤ s1.dataIn.length
  · rw [withDataIn_of_le n s1 k hn, withDataIn_of_le n s4 k (h.dataIn ▸ hn), h.dataIn]
    exact hk _ _ _ (h.dataIn ▸ h.dropDataIn n)
  · rw [withDataIn_of_lt n s1 k (by omega), withDataIn_of_lt n s4 k (by rw [h.dataIn]; omega)]
    exact rfl

/-! ### Commands -/

theorem execInit (h : AlikeButForWidth s1 s4) (ndr : BitVec 8) :
    AlikeResults (exec (.init ndr) s1) (exec (.init ndr) s4) := by
  refine h.withDataIn 40 fun bytes t1 t4 ht => ?_
  rw [ht.halt]
  split
  · exact ht
  · split
    · exact ht.raiseError ..
    · exact ht.loadCipherStream ..

theorem execWrctr (h : AlikeButForWidth s1 s4) : AlikeResults (exec .wrctr s1) (exec .wrctr s4) := by
  refine h.withDataIn 8 fun bytes t1 t4 ht => ?_
  rw [ht.halt]
  split
  · exact ht
  · obtain ⟨hnone1, hnone4⟩ | ⟨ws0, n, hpos1, hpos4⟩ := ht.stream
    · rw [hnone1, hnone4]
      exact ht.raiseError ..
    · obtain ⟨v1, hws1⟩ := hpos1.exists_words
      obtain ⟨v4, hws4⟩ := hpos4.exists_words
      rw [hws1, hws4]
      exact ht.writeCounter ..

/-- From one position of one stream both APPLYs send the same bytes and come to the same position. -/
theorem execApply (h : AlikeButForWidth s1 s4) (len : BitVec 24) :
    AlikeResults (exec (.apply len) s1) (exec (.apply len) s4) := by
  by_cases hlen1 : len.toNat ≤ s1.dataIn.length
  · have hlen4 : len.toNat ≤ s4.dataIn.length := h.dataIn ▸ hlen1
    cases hhalt1 : s1.halt with
    | true =>
      rw [execApply_of_halt hlen1 hhalt1, execApply_of_halt hlen4 (h.halt.trans hhalt1)]
      exact h.dropDataIn _
    | false =>
      have hhalt4 := h.halt.trans hhalt1
      obtain ⟨hnone1, hnone4⟩ | ⟨ws0, n, hpos1, hpos4⟩ := h.stream
      · rw [execApply_of_unset hlen1 hhalt1 hnone1, execApply_of_unset hlen4 hhalt4 hnone4]
        exact (h.dropDataIn _).raiseError ..
      · obtain ⟨st1, hst1, happly1⟩ := hpos1.execApply hhalt1 hlen1
        obtain ⟨st4, hst4, happly4⟩ := hpos4.execApply hhalt4 hlen4
        have hbytes : xorBytes (s4.dataIn.take len.toNat) (keystreamFrom ws0 s4.ndr n len.toNat) =
            xorBytes (s1.dataIn.take len.toNat) (keystreamFrom ws0 s1.ndr n len.toNat) := by
          rw [h.dataIn, h.ndr]
        rw [happly1, happly4, hbytes]
        exact ((h.dropDataIn _).setCipherStream (hst1.congr rfl) (hst4.congr rfl)).doutWrite _
  · have hlen4 : ¬len.toNat ≤ s4.dataIn.length := h.dataIn ▸ hlen1
    rw [execApply_of_starved (Nat.not_le.mp hlen1), execApply_of_starved (Nat.not_le.mp hlen4)]
    exact rfl

/-- A register that does not show the width reads alike. -/
theorem regValue (h : AlikeButForWidth s1 s4) {reg : BitVec 5}
    (hreg : readsBatchWidth (.rdreg reg) = false) :
    s4.regValue (Reg.ofIndex reg) = s1.regValue (Reg.ofIndex reg) := by
  simp only [readsBatchWidth, Bool.or_eq_false_iff, beq_eq_false_iff_ne] at hreg
  obtain ⟨⟨⟨h12, h13⟩, hoffset⟩, hconfig⟩ := hreg
  by_cases hword : reg.toNat < 0x10
  · rw [Reg.ofIndex_word hword, State.regValue, State.regValue, h.testAccess]
    obtain ⟨hnone1, hnone4⟩ | ⟨ws0, n, hpos1, hpos4⟩ := h.stream
    · rw [hnone1, hnone4]
    · obtain ⟨v1, hws1⟩ := hpos1.exists_words
      obtain ⟨v4, hws4⟩ := hpos4.exists_words
      have hne12 : reg.toNat ≠ 12 := by bv_omega
      have hne13 : reg.toNat ≠ 13 := by bv_omega
      simp [hws1, hws4, Words.setCtr_other _ _ reg.toNat hword hne12 hne13]
  · by_cases hreserved : 0x15 ≤ reg.toNat
    · rw [Reg.ofIndex_reserved hreserved]
      rfl
    · obtain rfl | rfl | rfl : reg = 0x11 ∨ reg = 0x12 ∨ reg = 0x14 := by bv_omega
      · exact congrArg (fun ndr : BitVec 8 => Except.ok (ndr.setWidth 32)) h.ndr
      · have hstatus : s4.statusWord = s1.statusWord := by
          rw [State.statusWord, State.statusWord, h.cause, h.halt, h.initd]
        exact congrArg Except.ok hstatus
      · exact congrArg Except.ok h.errcmd

theorem execRdreg (h : AlikeButForWidth s1 s4) {reg : BitVec 5}
    (hreg : readsBatchWidth (.rdreg reg) = false) :
    AlikeResults (exec (.rdreg reg) s1) (exec (.rdreg reg) s4) := by
  change AlikeResults (Machine.execRdreg reg s1) (Machine.execRdreg reg s4)
  rw [Machine.execRdreg, Machine.execRdreg, h.regValue hreg]
  split
  · exact h.doutWrite _
  · exact h.refuseCommand ..

theorem exec (h : AlikeButForWidth s1 s4) (i : Instr) (hi : readsBatchWidth i = false) :
    AlikeResults (exec i s1) (exec i s4) := by
  cases i with
  | init ndr => exact h.execInit ndr
  | apply len => exact h.execApply len
  | rdreg reg => exact h.execRdreg hi
  | wrctr => exact h.execWrctr

theorem runWord (h : AlikeButForWidth s1 s4) (w : Word)
    (hw : ∀ i, decode s1.cfg.testAccess w = .ok i → readsBatchWidth i = false) :
    AlikeResults (runWord w s1) (runWord w s4) := by
  cases hd : decode s1.cfg.testAccess w with
  | ok i =>
    rw [runWord_ok w s1 i hd, runWord_ok w s4 i (h.testAccess ▸ hd)]
    exact h.exec i (hw i hd)
  | error e =>
    rw [runWord_error w s1 e hd, runWord_error w s4 e (h.testAccess ▸ hd)]
    exact h.refuseCommand ..

end AlikeButForWidth

end Sys2Proof.Machine
end

section
/-! SUPPORT. Reset of the two engines: a command that one of them waits in, the other waits in too, even where
the command reads the width. -/

namespace Sys2Proof.Machine

theorem AlikeResults.cases {r1 r4 : Result} (h : AlikeResults r1 r4) :
    (∃ t1 t4, r1 = .next t1 ∧ r4 = .next t4 ∧ AlikeButForWidth t1 t4) ∨
    (∃ f, r1 = .fault f ∧ r4 = .fault f) := by
  match r1, r4, h with
  | .next t1, .next t4, h => exact .inl ⟨t1, t4, rfl, rfl, h⟩
  | .fault f1, .fault f4, h => exact .inr ⟨f1, rfl, congrArg Host.Outcome.fault (Eq.symm h)⟩

/-- The two answers are the same stop, or no stop at all. -/
def SameStop (r1 r4 : Result) : Prop :=
  ∀ f, r1 = .fault f ↔ r4 = .fault f

theorem AlikeResults.sameStop {r1 r4 : Result} (h : AlikeResults r1 r4) : SameStop r1 r4 := by
  intro f
  obtain ⟨t1, t4, rfl, rfl, -⟩ | ⟨f', rfl, rfl⟩ := h.cases
  · simp
  · rfl

theorem step_of_resetIn {s : State} (hreset : s.resetIn = true) : step s = .next s.takeReset := by
  simp [step, hreset]

theorem step_of_idle {s : State} (hreset : s.resetIn = false) (hidle : s.cmdIn = []) :
    step s = .next s := by
  simp [step, hreset, State.takeCommand_nil s hidle]

/-- RDREG stops where its register has a value and the host does not accept four bytes. -/
theorem execRdreg_fault_iff (reg : BitVec 5) (s : State) (f : Fault) :
    exec (.rdreg reg) s = .fault f ↔
      (∃ v, s.regValue (Reg.ofIndex reg) = .ok v) ∧ s.accepts 4 = false ∧ f = .stuckDataOut := by
  change execRdreg reg s = _ ↔ _
  unfold execRdreg
  cases s.regValue (Reg.ofIndex reg) with
  | error c => simp
  | ok v => cases hacc : s.accepts 4 <;> simp [Machine.doutWrite, hacc, eq_comm]

theorem State.commandInProgress_eq_some_iff (s : State) (w : Word) :
    s.commandInProgress = some w ↔
      ∃ rest f, s.cmdIn = w :: rest ∧ runWord w { s with cmdIn := rest } = .fault f ∧
        f.waiting = true := by
  cases hc : s.cmdIn with
  | nil => simp [State.commandInProgress, State.takeCommand, hc]
  | cons w' rest =>
    simp only [State.commandInProgress, State.takeCommand_cons s w' rest hc]
    constructor
    · intro h
      split at h
      · rename_i f hrun
        split at h
        · next hwaiting =>
          cases h
          exact ⟨rest, f, rfl, hrun, hwaiting⟩
        · cases h
      · cases h
      · cases h
    · rintro ⟨_, f, ⟨⟩, hrun, hwaiting⟩
      simp [hrun, hwaiting]

namespace AlikeButForWidth

variable {s1 s4 : State}

theorem exec_sameStop (h : AlikeButForWidth s1 s4) (i : Instr) :
    SameStop (Machine.exec i s1) (Machine.exec i s4) := by
  cases i with
  | init ndr => exact (h.execInit ndr).sameStop
  | apply len => exact (h.execApply len).sameStop
  | rdreg reg =>
    intro f
    rw [execRdreg_fault_iff, execRdreg_fault_iff, State.exists_regValue_iff,
      State.exists_regValue_iff, h.testAccess, h.initd, h.accepts]
  | wrctr => exact h.execWrctr.sameStop

theorem runWord_sameStop (h : AlikeButForWidth s1 s4) (w : Word) :
    SameStop (Machine.runWord w s1) (Machine.runWord w s4) := by
  cases hd : decode s1.cfg.testAccess w with
  | ok i =>
    rw [runWord_ok w s1 i hd, runWord_ok w s4 i (h.testAccess ▸ hd)]
    exact h.exec_sameStop i
  | error e =>
    rw [runWord_error w s1 e hd, runWord_error w s4 e (h.testAccess ▸ hd)]
    simp [SameStop]

theorem commandInProgress (h : AlikeButForWidth s1 s4) :
    s4.commandInProgress = s1.commandInProgress := by
  refine Option.ext fun w => ?_
  simp only [State.commandInProgress_eq_some_iff, h.cmdIn,
    (h.dropCommand _).runWord_sameStop w _]

theorem abandonCommand (h : AlikeButForWidth s1 s4) :
    s4.abandonCommand.cmdIn = s1.abandonCommand.cmdIn ∧
      s4.abandonCommand.dataIn = s1.abandonCommand.dataIn := by
  rw [State.abandonCommand, State.abandonCommand, h.commandInProgress]
  split
  · exact ⟨h.cmdIn, h.dataIn⟩
  · simp only [h.cmdIn, h.dataIn, h.testAccess, and_self]

theorem takeReset (h : AlikeButForWidth s1 s4) : AlikeButForWidth s1.takeReset s4.takeReset := by
  obtain ⟨hcmd, hdin⟩ := h.abandonCommand
  exact { h with
    ndr := rfl, halt := rfl, cause := rfl, errcmd := rfl, resetIn := rfl
    cmdIn := hcmd, dataIn := hdin, stream := .inl ⟨rfl, rfl⟩ }

theorem step (h : AlikeButForWidth s1 s4)
    (hcommand : s1.resetIn = true ∨ ∀ (w : Word) (rest : List Word) (i : Instr),
      s1.cmdIn = w :: rest → decode s1.cfg.testAccess w = .ok i → readsBatchWidth i = false) :
    AlikeResults (step s1) (step s4) := by
  obtain ⟨hreset, hs1⟩ | ⟨hreset, hidle, hs1⟩ | ⟨hreset, w, rest, hc, hs1⟩ := step_cases s1
  · rw [hs1, step_of_resetIn (h.resetIn.trans hreset)]
    exact h.takeReset
  · rw [hs1, step_of_idle (h.resetIn.trans hreset) (h.cmdIn.trans hidle)]
    exact h
  · rw [hs1, step_of_cmdIn (h.resetIn.trans hreset) (h.cmdIn.trans hc)]
    exact (h.dropCommand rest).runWord w fun i =>
      (hcommand.resolve_left (by simp [hreset])) w rest i hc

theorem runAll (commands : List Instr) (h : AlikeButForWidth s1 s4)
    (hcommands : ∀ i, i ∈ commands → readsBatchWidth i = false) :
    AlikeResults (runAll commands s1) (runAll commands s4) := by
  induction commands generalizing s1 s4 with
  | nil => exact h
  | cons i commands ih =>
    simp only [Machine.runAll]
    obtain ⟨t1, t4, h1, h4, ht⟩ | ⟨f, h1, h4⟩ :=
      (h.exec i (hcommands i List.mem_cons_self)).cases
    · rw [h1, h4]
      exact ih ht fun j hj => hcommands j (List.mem_cons_of_mem i hj)
    · rw [h1, h4]
      exact rfl

end AlikeButForWidth

end Sys2Proof.Machine
end

section
/-! PROOFS. The batch width (O44). -/

namespace Sys2Proof.Machine

/-- The reset states are both uninitialized. -/
theorem alikeButForWidth_resetOf (testAccess : Bool) :
    AlikeButForWidth (State.resetOf ⟨.one, testAccess⟩) (State.resetOf ⟨.four, testAccess⟩) :=
  ⟨rfl, rfl, rfl, rfl, rfl, rfl, rfl, rfl, rfl, rfl, rfl, rfl, .inl ⟨rfl, rfl⟩⟩

/-- Settles O44: likeness is kept by reset and by every command that does not read the width, and so by a list
of them. -/
theorem batchWidthIsInvisible : Obligations.BatchWidthIsInvisible :=
  ⟨alikeButForWidth_resetOf, fun _ _ h hcommand => h.step hcommand,
    fun _ _ commands h hcommands => h.runAll commands fun i hi => (hcommands i hi).2⟩

end Sys2Proof.Machine
end

section
/-! SUPPORT. INIT on its bytes, written out as key and nonce, where it does not run; and what the State of a
new CipherStream holds (43_initializer.md R192, 20_memory.md R63). -/

namespace Sys2Proof.Machine

theorem withDataIn_of_append {n : Nat} {s : State} {bytes rest : List Byte}
    (hdin : s.dataIn = bytes ++ rest) (hlen : bytes.length = n) (k : List Byte → State → Result) :
    withDataIn n s k = k bytes { s with dataIn := rest } := by
  subst hlen
  rw [withDataIn_of_le _ _ _ (by simp [hdin]), hdin, List.take_left, List.drop_left]

theorem execInit_of_halt {s : State} {ndr : BitVec 8} {bytes rest : List Byte}
    (hdin : s.dataIn = bytes ++ rest) (hlen : bytes.length = 40) (hhalt : s.halt = true) :
    exec (.init ndr) s = .next { s with dataIn := rest } :=
  (withDataIn_of_append hdin hlen _).trans (if_pos hhalt)

theorem execInit_of_zero {s : State} {bytes rest : List Byte}
    (hdin : s.dataIn = bytes ++ rest) (hlen : bytes.length = 40) (hrun : s.halt = false) :
    exec (.init 0) s =
      .next (State.raiseError .illegalRounds (encode (.init 0)) { s with dataIn := rest }) :=
  (withDataIn_of_append hdin hlen _).trans
    ((if_neg (by simp [hrun])).trans (if_pos rfl))

theorem toNat_le32 (b0 b1 b2 b3 : Byte) :
    (le32 b0 b1 b2 b3).toNat =
      b0.toNat + 256 * b1.toNat + 65536 * b2.toNat + 16777216 * b3.toNat := by
  rw [le32, toNat_append, toNat_append, toNat_append]
  omega

theorem toNat_le32At (bytes : List Byte) (j : Nat) :
    (le32At bytes j).toNat =
      (bytes.getD (4 * j) 0).toNat + 256 * (bytes.getD (4 * j + 1) 0).toNat
        + 65536 * (bytes.getD (4 * j + 2) 0).toNat + 16777216 * (bytes.getD (4 * j + 3) 0).toNat :=
  toNat_le32 ..

theorem initialWords_key (key nonce : List Byte) (j : Nat) (hj : j < 8) :
    (initialWords key nonce)[4 + j] = le32At key j := by
  interval_cases j <;> rfl

theorem initialWords_nonce (key nonce : List Byte) (j : Nat) (hj : j < 2) :
    (initialWords key nonce)[14 + j] = le32At nonce j := by
  interval_cases j <;> rfl

end Sys2Proof.Machine
end

section
/-! PROOFS. INIT (O10). -/

namespace Sys2Proof.Machine

/-- Settles O10: the three cases of INIT, and the words it loads read as numbers. -/
theorem initLoadsACipherStream : Obligations.InitLoadsACipherStream := by
  intro s ndr key nonce rest hdin hkey hnonce
  have h40 : (key ++ nonce).length = 40 := by simp [hkey, hnonce]
  refine ⟨fun hhalt => execInit_of_halt hdin h40 hhalt, ?_, fun hrun hndr => ?_⟩
  · rintro hrun rfl
    exact execInit_of_zero hdin h40 hrun
  · obtain ⟨h0, h1, h2, h3⟩ := hasConstants_initialWords key nonce
    refine ⟨initialWords key nonce, execInit_of_run hndr hkey hnonce hrun hdin, h0, h1, h2, h3,
      fun j hj => ?_, rfl, rfl, fun j hj => ?_⟩
    · rw [initialWords_key key nonce j hj, toNat_le32At]
    · rw [initialWords_nonce key nonce j hj, toNat_le32At]

end Sys2Proof.Machine
end

section
/-! SUPPORT. RDREG where its register has a value and where it has none; which register an index reads as a
number (10_state.md R27, R30, R32, R33, 44_register_access.md R200). -/

namespace Sys2Proof.Machine

/-- The byte of a word from bit `start` up, as a number. -/
theorem byteField_eq_ofNat (w : Word) (start : Nat) :
    w.extractLsb' start 8 = BitVec.ofNat 8 (w.toNat / 2 ^ start) :=
  BitVec.eq_of_toNat_eq (toNat_extractLsb' w start 8)

/-- The four bytes of a word, least significant first (00_scope.md R15). -/
theorem bytesLe32_eq_ofNat (w : Word) :
    bytesLe32 w = [BitVec.ofNat 8 w.toNat, BitVec.ofNat 8 (w.toNat / 256),
      BitVec.ofNat 8 (w.toNat / 65536), BitVec.ofNat 8 (w.toNat / 16777216)] := by
  simp [bytesLe32, byteField_eq_ofNat]

theorem encode_rdreg_eq_ofNat (reg : BitVec 5) :
    encode (.rdreg reg) = BitVec.ofNat 32 (256 * reg.toNat + 3) := by
  rw [← toNat_encode_rdreg, BitVec.ofNat_toNat, BitVec.setWidth_eq]

/-- RDREG of a register with a value, where the host accepts its four bytes. -/
theorem execRdreg_of_value {s : State} {reg : BitVec 5} {v : Word}
    (hv : s.regValue (Reg.ofIndex reg) = .ok v) (hacc : s.accepts 4 = true) :
    exec (.rdreg reg) s = .next (s.sent (bytesLe32 v)) := by
  change execRdreg reg s = _
  rw [execRdreg, hv]
  exact doutWrite_of_accepts _ _ hacc

/-- RDREG whose checks fail raises its cause, or is dropped while halted (60_exceptions.md R227). -/
theorem execRdreg_of_error {s : State} {reg : BitVec 5} {c : Cause}
    (hc : s.regValue (Reg.ofIndex reg) = .error c) :
    exec (.rdreg reg) s = .next (s.refuseCommand c (encode (.rdreg reg))) := by
  change execRdreg reg s = _
  rw [execRdreg, hc]

/-- A State word without TEST_ACCESS (44_register_access.md R200, second check). -/
theorem State.regValue_word_locked {s : State} (hlocked : s.cfg.testAccess = false) (k : Fin 16) :
    s.regValue (.word k) = .error .illegalReg := by
  simp [State.regValue, hlocked]

/-- A State word before INIT (44_register_access.md R200, third check). -/
theorem State.regValue_word_unset {s : State} (hta : s.cfg.testAccess = true)
    (hws : s.words = none) (k : Fin 16) : s.regValue (.word k) = .error .notInitialized := by
  simp [State.regValue, hta, hws]

/-- A State word that RDREG may read (44_register_access.md R200). -/
theorem State.regValue_word {s : State} {ws : Words} (hta : s.cfg.testAccess = true)
    (hws : s.words = some ws) (k : Fin 16) : s.regValue (.word k) = .ok ws[k] := by
  simp [State.regValue, hta, hws]

/-- A 9-bit register, zero-extended, as a number (10_state.md R27, R32). -/
theorem setWidth_ofNat_nine (n : Nat) :
    (BitVec.ofNat 9 n).setWidth 32 = BitVec.ofNat 32 (n % 512) :=
  BitVec.eq_of_toNat_eq (by simp)

/-- STATUS as a number (10_state.md R30). -/
theorem State.statusWord_eq_ofNat (s : State) :
    s.statusWord =
      BitVec.ofNat 32 (s.words.isSome.toNat + 2 * s.halt.toNat + 16 * s.cause.toNat) := by
  have hcause := s.cause.isLt
  have hhalt := s.halt.toNat_le
  have hinitd := s.words.isSome.toNat_le
  apply BitVec.eq_of_toNat_eq
  rw [State.statusWord, toNat_append, toNat_append, toNat_append, toNat_append,
    BitVec.toNat_ofBool, BitVec.toNat_ofBool, BitVec.toNat_ofNat, BitVec.toNat_ofNat,
    BitVec.toNat_ofNat, State.initd]
  omega

/-- CONFIG as a number (10_state.md R33). -/
theorem Config.word_eq_ofNat (c : Config) :
    Config.word c = BitVec.ofNat 32 (c.batch.blocks + 16 * c.testAccess.toNat) := by
  obtain ⟨batch, testAccess⟩ := c
  cases batch <;> cases testAccess <;> rfl

end Sys2Proof.Machine
end

section
/-! PROOFS. RDREG (O11). -/

namespace Sys2Proof.Machine

/-- Settles O11: index by index, the register's value as a number, or the cause of the check that fails. -/
theorem rdregReadsEveryRegister : Obligations.RdregReadsEveryRegister := by
  intro s reg r sends raises
  have hsends : ∀ v, s.regValue (Reg.ofIndex reg) = .ok v → sends v := by
    intro v hv hacc
    rw [execRdreg_of_value hv hacc, bytesLe32_eq_ofNat]
    rfl
  have hraises : ∀ c, s.regValue (Reg.ofIndex reg) = .error c → raises c.code := by
    intro c hc
    dsimp only [raises]
    rw [execRdreg_of_error hc, encode_rdreg_eq_ofNat]
    rfl
  have hnamed : ∀ (i : BitVec 5) (v : Word),
      r = i.toNat → s.regValue (Reg.ofIndex i) = .ok v → sends v := by
    intro i v hr hv
    obtain rfl : reg = i := BitVec.eq_of_toNat_eq hr
    exact hsends v hv
  refine ⟨fun hr => hraises .illegalReg ?_, fun hr hlocked => hraises .illegalReg ?_,
    fun hr hta hws => hraises .notInitialized ?_, fun ws hr hta hws => hsends _ ?_,
    fun hr => hnamed 0x10 _ hr (congrArg Except.ok (setWidth_ofNat_nine s.offset)),
    fun hr => hnamed 0x11 _ hr (congrArg Except.ok (BitVec.ofNat_toNat 32 s.ndr).symm),
    fun hr => hnamed 0x12 _ hr (congrArg Except.ok s.statusWord_eq_ofNat),
    fun hr => hnamed 0x13 _ hr (congrArg Except.ok (Config.word_eq_ofNat s.cfg)),
    fun hr => hnamed 0x14 _ hr rfl⟩
  · rw [Reg.ofIndex_reserved hr]
    rfl
  · rw [Reg.ofIndex_word hr, State.regValue_word_locked hlocked]
  · rw [Reg.ofIndex_word hr, State.regValue_word_unset hta hws]
  · rw [Reg.ofIndex_word hr, State.regValue_word hta hws]
    rfl

end Sys2Proof.Machine
end

section
/-! SUPPORT. WRCTR on its eight bytes (44_register_access.md R203). -/

namespace Sys2Proof.Machine

/-- WRCTR while halted (60_exceptions.md R227). -/
theorem execWrctr_of_halt {s : State} {bytes rest : List Byte}
    (hdin : s.dataIn = bytes ++ rest) (hlen : bytes.length = 8) (hhalt : s.halt = true) :
    exec .wrctr s = .next { s with dataIn := rest } :=
  (withDataIn_of_append hdin hlen _).trans (if_pos hhalt)

/-- WRCTR before INIT (60_exceptions.md R221). -/
theorem execWrctr_of_unset {s : State} {bytes rest : List Byte}
    (hdin : s.dataIn = bytes ++ rest) (hlen : bytes.length = 8) (hrun : s.halt = false)
    (hws : s.words = none) :
    exec .wrctr s =
      .next (State.raiseError .notInitialized (encode .wrctr) { s with dataIn := rest }) := by
  change execWrctr s = _
  rw [execWrctr, withDataIn_of_append hdin hlen]
  simp [hrun, hws]

/-- WRCTR after INIT. -/
theorem execWrctr_of_run {s : State} {bytes rest : List Byte}
    (hdin : s.dataIn = bytes ++ rest) (hlen : bytes.length = 8) (hrun : s.halt = false)
    {ws : Words} (hws : s.words = some ws) :
    exec .wrctr s =
      .next (State.writeCounter ws (le32At bytes 1 ++ le32At bytes 0)
        { s with dataIn := rest }) := by
  change execWrctr s = _
  rw [execWrctr, withDataIn_of_append hdin hlen]
  simp [hrun, hws]

theorem Words.setCtr_append_low (ws : Words) (high low : Word) :
    (Words.setCtr ws (high ++ low))[12] = low := by
  rw [Words.setCtr_low, BitVec.extractLsb'_append_eq_right]

theorem Words.setCtr_append_high (ws : Words) (high low : Word) :
    (Words.setCtr ws (high ++ low))[13] = high := by
  rw [Words.setCtr_high, BitVec.extractLsb'_append_eq_left]

end Sys2Proof.Machine
end

section
/-! PROOFS. WRCTR (O12). -/

namespace Sys2Proof.Machine

/-- Settles O12: the three cases of WRCTR on its eight bytes, and the counter words it writes read as
numbers. -/
theorem wrctrWritesTheCounter : Obligations.WrctrWritesTheCounter := by
  refine ⟨fun s c0 c1 c2 c3 c4 c5 c6 c7 rest _ hdin => ?_, by decide⟩
  change s.dataIn = [c0, c1, c2, c3, c4, c5, c6, c7] ++ rest at hdin
  refine ⟨fun hhalt => execWrctr_of_halt hdin rfl hhalt,
    fun hrun hws => execWrctr_of_unset hdin rfl hrun hws,
    fun ws hrun hws => ⟨_, execWrctr_of_run hdin rfl hrun hws, ?_, ?_, ?_⟩⟩
  · rw [Words.setCtr_append_low]
    exact toNat_le32At _ 0
  · rw [Words.setCtr_append_high]
    exact toNat_le32At _ 1
  · exact Words.setCtr_other ws _

end Sys2Proof.Machine
end

section
/-! SUPPORT. Which check a word fails (60_exceptions.md R221, R222), and that a word raises its error where it
fails one on a running engine and else leaves HALT, CAUSE and ERRCMD alone. -/

namespace Sys2Proof.Machine

/-- The cause of the check a command fails, if it fails one (60_exceptions.md R221). -/
def State.failedCheck (s : State) : Instr → Option Cause
  | .init ndr => if ndr = 0 then some .illegalRounds else none
  | .apply _ => if s.initd then none else some .notInitialized
  | .rdreg reg =>
    match s.regValue (Reg.ofIndex reg) with
    | .ok _ => none
    | .error c => some c
  | .wrctr => if s.initd then none else some .notInitialized

/-- The cause of the check a word fails, if it fails one: decoding comes before the command's own checks
(60_exceptions.md R222). -/
def State.failedCheckOfWord (s : State) (w : Word) : Option Cause :=
  match decode s.cfg.testAccess w with
  | .ok i => s.failedCheck i
  | .error e => some (.ofDecodeError e)

theorem State.failedCheckOfWord_ok {s : State} {w : Word} {i : Instr}
    (hd : decode s.cfg.testAccess w = .ok i) : s.failedCheckOfWord w = s.failedCheck i := by
  simp [State.failedCheckOfWord, hd]

theorem State.failedCheckOfWord_error {s : State} {w : Word} {e : DecodeError}
    (hd : decode s.cfg.testAccess w = .error e) :
    s.failedCheckOfWord w = some (.ofDecodeError e) := by
  simp [State.failedCheckOfWord, hd]

theorem dinLenOfWord_ok {testAccess : Bool} {w : Word} {i : Instr}
    (hd : decode testAccess w = .ok i) : dinLenOfWord testAccess w = dinLen i := by
  simp [dinLenOfWord, hd]

theorem dinLenOfWord_error {testAccess : Bool} {w : Word} {e : DecodeError}
    (hd : decode testAccess w = .error e) : dinLenOfWord testAccess w = 0 := by
  simp [dinLenOfWord, hd]

theorem State.failedCheck_rdreg_of_value {s : State} {reg : BitVec 5} {v : Word}
    (hv : s.regValue (Reg.ofIndex reg) = .ok v) : s.failedCheck (.rdreg reg) = none := by
  simp [State.failedCheck, hv]

theorem State.failedCheck_rdreg_of_error {s : State} {reg : BitVec 5} {c : Cause}
    (hc : s.regValue (Reg.ofIndex reg) = .error c) : s.failedCheck (.rdreg reg) = some c := by
  simp [State.failedCheck, hc]

/-- The checks of RDREG in the order of 44_register_access.md R200, on the index as a number. -/
theorem State.failedCheck_rdreg (s : State) (reg : BitVec 5) :
    s.failedCheck (.rdreg reg) =
      if 0x15 ≤ reg.toNat ∨ (reg.toNat < 0x10 ∧ s.cfg.testAccess = false) then some .illegalReg
      else if reg.toNat < 0x10 ∧ s.initd = false then some .notInitialized
      else none := by
  by_cases hreserved : 0x15 ≤ reg.toNat
  · rw [if_pos (.inl hreserved)]
    exact failedCheck_rdreg_of_error (by rw [Reg.ofIndex_reserved hreserved]; rfl)
  by_cases hword : reg.toNat < 0x10
  · have hindex := Reg.ofIndex_word hword
    cases hta : s.cfg.testAccess with
    | false =>
      rw [if_pos (.inr ⟨hword, rfl⟩)]
      exact failedCheck_rdreg_of_error (hindex ▸ State.regValue_word_locked hta _)
    | true =>
      rw [if_neg (by simp [hreserved])]
      cases hws : s.words with
      | none =>
        rw [if_pos ⟨hword, by simp [State.initd, hws]⟩]
        exact failedCheck_rdreg_of_error (hindex ▸ State.regValue_word_unset hta hws _)
      | some ws =>
        rw [if_neg (by simp [State.initd, hws])]
        exact failedCheck_rdreg_of_value (hindex ▸ State.regValue_word hta hws _)
  · obtain ⟨v, hv⟩ := s.exists_regValue_named (reg := reg) (by omega) (by omega)
    rw [failedCheck_rdreg_of_value hv, if_neg (by omega), if_neg (by omega)]

/-- From `s` to `t` nothing changes the error the engine shows. -/
structure State.KeepsError (s t : State) : Prop where
  halt : t.halt = s.halt
  cause : t.cause = s.cause
  errcmd : t.errcmd = s.errcmd

/-- How the word `w` of `din` data-in bytes, whose failed check is `check`, leaves `t` from `s`
(60_exceptions.md R224 to R228). -/
inductive State.Reports (s t : State) (check : Option Cause) (w : Word) (din : Nat) : Prop where
  /-- On a running engine a failed check is an error entry. -/
  | raises (c : Cause) (running : s.halt = false) (failed : check = some c)
      (result : t = State.raiseError c w { s with dataIn := s.dataIn.drop din })
  /-- A halted engine, and a command whose checks pass, keep the error. -/
  | keeps (quiet : s.halt = true ∨ check = none) (error : s.KeepsError t)

theorem Cause.code_ne_zero (c : Cause) : c.code ≠ 0 := by
  cases c <;> decide

/-- A running engine without an error shows the code of the failed check, and is halted where there is one
(60_exceptions.md R221). -/
theorem State.Reports.code {s t : State} {check : Option Cause} {w : Word} {din : Nat}
    (h : s.Reports t check w din) (hrun : s.halt = false) (hcause : s.cause = 0) :
    (t.halt = true ↔ t.cause ≠ 0) ∧ t.cause = check.elim 0 Cause.code := by
  obtain ⟨c, -, rfl, rfl⟩ | ⟨hquiet, hkept⟩ := h
  · exact ⟨iff_of_true rfl c.code_ne_zero, rfl⟩
  · obtain rfl := hquiet.resolve_left (by simp [hrun])
    simp [hkept.halt, hkept.cause, hrun, hcause]

theorem State.Reports.refuseCommand (c : Cause) (w : Word) (s : State) :
    s.Reports (s.refuseCommand c w) (some c) w 0 := by
  cases hhalt : s.halt with
  | false => exact .raises c hhalt rfl (refuseCommand_running c w s hhalt)
  | true =>
    rw [refuseCommand_halted c w s hhalt]
    exact .keeps (.inl hhalt) ⟨rfl, rfl, rfl⟩

/-- What every command does to HALT, CAUSE and ERRCMD. -/
theorem exec_reports (i : Instr) {s t : State} (h : exec i s = .next t) :
    s.Reports t (s.failedCheck i) (encode i) (dinLen i) := by
  cases i with
  | init ndr =>
    obtain ⟨-, ⟨hhalt, rfl⟩ | ⟨hrun, hzero, rfl⟩ | ⟨-, hndr, rfl⟩⟩ := execInit_next ndr s t h
    · exact .keeps (.inl hhalt) ⟨rfl, rfl, rfl⟩
    · exact .raises _ hrun (if_pos hzero) rfl
    · exact .keeps (.inr (if_neg hndr)) ⟨rfl, rfl, rfl⟩
  | apply len =>
    obtain ⟨-, ⟨hhalt, rfl⟩ | ⟨hrun, hws, rfl⟩ | ⟨-, ws, out, st, hws, -, -, rfl⟩⟩ :=
      execApply_next len s t h
    · exact .keeps (.inl hhalt) ⟨rfl, rfl, rfl⟩
    · exact .raises _ hrun (by simp [State.failedCheck, State.initd, hws]) rfl
    · exact .keeps (.inr (by simp [State.failedCheck, State.initd, hws])) ⟨rfl, rfl, rfl⟩
  | rdreg reg =>
    obtain ⟨v, hv, -, rfl⟩ | ⟨c, hc, rfl⟩ := execRdreg_next reg s t h
    · exact .keeps (.inr (State.failedCheck_rdreg_of_value hv)) ⟨rfl, rfl, rfl⟩
    · rw [State.failedCheck_rdreg_of_error hc]
      exact .refuseCommand ..
  | wrctr =>
    obtain ⟨-, ⟨hhalt, rfl⟩ | ⟨hrun, hws, rfl⟩ | ⟨-, ws, hws, rfl⟩⟩ := execWrctr_next s t h
    · exact .keeps (.inl hhalt) ⟨rfl, rfl, rfl⟩
    · exact .raises _ hrun (by simp [State.failedCheck, State.initd, hws]) rfl
    · exact .keeps (.inr (by simp [State.failedCheck, State.initd, hws])) ⟨rfl, rfl, rfl⟩

/-- What every accepted word does to HALT, CAUSE and ERRCMD; the word an error records is the word itself. -/
theorem runWord_reports (w : Word) {s t : State} (h : runWord w s = .next t) :
    s.Reports t (s.failedCheckOfWord w) w (dinLenOfWord s.cfg.testAccess w) := by
  obtain ⟨i, hd, hexec⟩ | ⟨e, hd, herr⟩ := runWord_cases w s
  · rw [State.failedCheckOfWord_ok hd, dinLenOfWord_ok hd, ← encodeRestoresTheWord _ w i hd]
    exact exec_reports i (hexec ▸ h)
  · cases herr.symm.trans h
    rw [State.failedCheckOfWord_error hd, dinLenOfWord_error hd]
    exact .refuseCommand ..

/-- A halted engine drops a command: of it only the data-in bytes go, unless it is a RDREG whose register has
a value (60_exceptions.md R227). -/
theorem exec_of_halt {s : State} (hhalt : s.halt = true) (i : Instr)
    (hlen : dinLen i ≤ s.dataIn.length)
    (hrdreg : ∀ reg v, i = .rdreg reg → s.regValue (Reg.ofIndex reg) ≠ .ok v) :
    exec i s = .next { s with dataIn := s.dataIn.drop (dinLen i) } := by
  have hsplit := (List.take_append_drop (dinLen i) s.dataIn).symm
  have htake := List.length_take_of_le hlen
  cases i with
  | init ndr => exact execInit_of_halt hsplit htake hhalt
  | apply len => exact execApply_of_halt hlen hhalt
  | rdreg reg =>
    cases hv : s.regValue (Reg.ofIndex reg) with
    | ok v => exact absurd hv (hrdreg reg v rfl)
    | error c =>
      rw [execRdreg_of_error hv, refuseCommand_halted _ _ _ hhalt]
      rfl
  | wrctr => exact execWrctr_of_halt hsplit htake hhalt

/-- A halted engine drops every word but a RDREG whose register has a value (60_exceptions.md R227). -/
theorem runWord_of_halt {s : State} (hhalt : s.halt = true) {w : Word}
    (hlen : dinLenOfWord s.cfg.testAccess w ≤ s.dataIn.length)
    (hrdreg : ∀ reg v, decode s.cfg.testAccess w = .ok (.rdreg reg) →
      s.regValue (Reg.ofIndex reg) ≠ .ok v) :
    runWord w s =
      .next { s with dataIn := s.dataIn.drop (dinLenOfWord s.cfg.testAccess w) } := by
  obtain ⟨i, hd, hexec⟩ | ⟨e, hd, herr⟩ := runWord_cases w s
  · rw [dinLenOfWord_ok hd] at hlen ⊢
    exact hexec.trans (exec_of_halt hhalt i hlen fun reg v hi => hrdreg reg v (hi ▸ hd))
  · rw [herr, dinLenOfWord_error hd, refuseCommand_halted _ _ _ hhalt]
    rfl

end Sys2Proof.Machine
end

section
/-! PROOFS. Errors and the halted engine (O22, O23, O25, O26), and the engine that waits (O6). -/

namespace Sys2Proof.Machine

/-- Settles O22: CAUSE is the code of the word's failed check, or stays 0, and the checks are those of R222,
command by command. -/
theorem causeFollowsThePriority : Obligations.CauseFollowsThePriority := by
  intro s t w rest hreset hcmd hrun hcause hstep
  have hreports := runWord_reports w ((step_of_cmdIn hreset hcmd).symm.trans hstep)
  obtain ⟨hhalt, hcode⟩ := hreports.code hrun hcause
  refine ⟨hhalt, hcode.trans ?_⟩
  change (s.failedCheckOfWord w).elim 0 Cause.code = _
  cases hd : decode s.cfg.testAccess w with
  | error e =>
    rw [State.failedCheckOfWord_error hd]
    cases e <;> rfl
  | ok i =>
    rw [State.failedCheckOfWord_ok hd]
    cases i with
    | init ndr => simp only [State.failedCheck]; split <;> rfl
    | apply len => cases hinitd : s.initd <;> simp [State.failedCheck, hinitd, Cause.code]
    | rdreg reg =>
      rw [State.failedCheck_rdreg]
      dsimp only
      split_ifs <;> rfl
    | wrctr => cases hinitd : s.initd <;> simp [State.failedCheck, hinitd, Cause.code]

/-- Settles O23: a word that leaves a running engine halted has raised its error, and error entry writes HALT,
CAUSE and ERRCMD only. -/
theorem errorsArePrecise : Obligations.ErrorsArePrecise := by
  intro s t w rest hreset hcmd hrun hstep hhalt
  obtain ⟨c, -, -, rfl⟩ | ⟨-, hkept⟩ :=
    runWord_reports w ((step_of_cmdIn hreset hcmd).symm.trans hstep)
  · exact ⟨c.code_range.1, c.code_range.2, rfl⟩
  · exact nomatch hhalt.symm.trans (hkept.halt.trans hrun)

/-- Settles O25: RDREG sends a register that has a value, and every other word is dropped. -/
theorem haltedEngineOnlyReads : Obligations.HaltedEngineOnlyReads := by
  intro s w rest hreset hcmd hhalt hlen
  rw [step_of_cmdIn hreset hcmd]
  refine ⟨fun reg v hd hv hacc => ?_, fun hdrop => ?_⟩
  · rw [runWord_ok w { s with cmdIn := rest } _ hd]
    exact execRdreg_of_value hv hacc
  · exact runWord_of_halt (s := { s with cmdIn := rest }) hhalt hlen hdrop

/-- Settles O26: every word keeps the error of a halted engine, and reset clears it. -/
theorem onlyResetClearsAnError : Obligations.OnlyResetClearsAnError := by
  intro s t hhalt hstep
  obtain ⟨hreset, hs⟩ | ⟨hreset, -, hs⟩ | ⟨hreset, w, rest, -, hs⟩ := step_cases s
  · cases hs.symm.trans hstep
    exact ⟨fun hno => (nomatch hreset.symm.trans hno), fun _ => ⟨rfl, rfl, rfl⟩⟩
  · cases hs.symm.trans hstep
    exact ⟨fun _ => ⟨hhalt, rfl, rfl⟩, fun hyes => nomatch hreset.symm.trans hyes⟩
  · obtain ⟨_, hrun, -, -⟩ | ⟨-, hkept⟩ := runWord_reports w (hs.symm.trans hstep)
    · exact nomatch hhalt.symm.trans hrun
    · exact ⟨fun _ => ⟨hkept.halt.trans hhalt, hkept.cause, hkept.errcmd⟩,
        fun hyes => nomatch hreset.symm.trans hyes⟩

/-- Settles O6: an empty command port offers no word to run. -/
theorem waitingEngineHoldsItsState : Obligations.WaitingEngineHoldsItsState :=
  fun _ => step_of_idle

end Sys2Proof.Machine
end

section
/-! SUPPORT. The commands that wait for the host, for data-in bytes or for its acceptance of data-out
(70_reset_and_hazards.md R264), and what reset leaves on the ports in their place (R260). -/

namespace Sys2Proof.Machine

/-- Every command takes its DINLEN bytes before it does anything else. -/
theorem exec_of_starved {s : State} {i : Instr} (hlen : s.dataIn.length < dinLen i) :
    exec i s = .fault .stuckDataIn := by
  cases i with
  | init ndr => exact withDataIn_of_lt 40 s _ hlen
  | apply len => exact execApply_of_starved hlen
  | rdreg reg => exact absurd hlen (Nat.not_lt_zero _)
  | wrctr => exact withDataIn_of_lt 8 s _ hlen

/-- RDREG of a register with a value, where the host does not accept its four bytes. -/
theorem execRdreg_of_unaccepted {s : State} {reg : BitVec 5} {v : Word}
    (hv : s.regValue (Reg.ofIndex reg) = .ok v) (hroom : s.accepts 4 = false) :
    exec (.rdreg reg) s = .fault .stuckDataOut :=
  (execRdreg_fault_iff reg s _).mpr ⟨⟨v, hv⟩, hroom, rfl⟩

/-- A running APPLY from the invariant, where the host does not accept its LEN bytes. -/
theorem execApply_of_unaccepted {s : State} {len : BitVec 24} (h : s.Inv) (hrun : s.halt = false)
    (hinitd : s.initd = true) (hlen : len.toNat ≤ s.dataIn.length)
    (hroom : s.accepts len.toNat = false) : exec (.apply len) s = .fault .stuckDataOut := by
  obtain ⟨ws, hws⟩ := State.words_isSome_of_initd hinitd
  obtain ⟨out, st, hans, happly⟩ := execApply_running h hrun hws hlen
  exact happly.trans (doutWrite_of_not_accepts out _ (hans.length ▸ hroom))

/-- Reset drops the word of a command the engine waits in, and that command's DINLEN bytes. -/
theorem step_reset_of_waiting {s : State} {w : Word} {rest : List Word} {i : Instr} {f : Fault}
    (hreset : s.resetIn = true) (hcmd : s.cmdIn = w :: rest)
    (hd : decode s.cfg.testAccess w = .ok i) (hexec : exec i { s with cmdIn := rest } = .fault f)
    (hwaiting : f.waiting = true) :
    ∃ t, step s = .next t ∧ t.cmdIn = rest ∧ t.dataIn = s.dataIn.drop (dinLen i) := by
  have hrun := (runWord_ok w { s with cmdIn := rest } i hd).trans hexec
  obtain ⟨hport, hdin⟩ := takeReset_waiting s w rest f hcmd hrun hwaiting
  exact ⟨_, step_of_resetIn hreset, hport, dinLenOfWord_ok hd ▸ hdin⟩

end Sys2Proof.Machine
end

section
/-! PROOFS. Commands that wait for the host (O18, O19), and reset (O8, O9). -/

namespace Sys2Proof.Machine

/-- Settles O18: a command takes its data-in bytes first. -/
theorem starvedCommandsWait : Obligations.StarvedCommandsWait :=
  fun _ _ _ => exec_of_starved

/-- Settles O19: both commands send last, RDREG four bytes and APPLY the LEN bytes its loop makes. -/
theorem unacceptedOutputWaits : Obligations.UnacceptedOutputWaits :=
  ⟨fun _ _ _ => execRdreg_of_unaccepted, fun _ _ => execApply_of_unaccepted⟩

/-- Settles O8: the step takes the reset, whose state is written out. -/
theorem resetInputResetsTheEngine : Obligations.ResetInputResetsTheEngine := by
  intro s hreset
  obtain ⟨hcfg, hwords, hksb, hoffset, hndr, hhalt, hcause, herrcmd, hresetIn, hdout, -⟩ :=
    takeReset_fields s
  exact ⟨_, step_of_resetIn hreset, hcfg, hwords, hoffset, hndr, hhalt, hcause, herrcmd, hresetIn,
    fun _ => by rw [hksb, Memory.read], hdout⟩

/-- Settles O9: the three ways to wait are stops of the command at the head of the port, which reset ends with
its bytes; where the word completes, or there is none, reset leaves the ports alone. -/
theorem resetEndsAStarvedCommand : Obligations.ResetEndsAStarvedCommand := by
  refine ⟨fun s w rest i hreset hcmd hd hlen => ?starved,
    fun s w rest reg v hreset hcmd hd hv hroom => ?rdreg,
    fun s w rest len h hreset hcmd hd hrun hinitd hlen hroom => ?apply,
    fun s u w rest hreset hcmd hnext => ?completes, fun s hreset hidle => ?idle⟩
  case starved =>
    have hexec := exec_of_starved (s := { s with cmdIn := rest }) hlen
    have hnone : s.dataIn.drop (dinLen i) = [] := List.drop_eq_nil_of_le hlen.le
    exact hnone ▸ step_reset_of_waiting hreset hcmd hd hexec rfl
  case rdreg =>
    exact step_reset_of_waiting hreset hcmd hd
      (execRdreg_of_unaccepted (s := { s with cmdIn := rest }) hv hroom) rfl
  case apply =>
    exact step_reset_of_waiting hreset hcmd hd
      (execApply_of_unaccepted (s := { s with cmdIn := rest }) (h.withPorts ..) hrun hinitd hlen
        hroom) rfl
  case completes =>
    obtain ⟨hport, hdin⟩ := takeReset_completing s u w rest hcmd hnext
    exact ⟨_, step_of_resetIn hreset, hport.trans hcmd, hdin⟩
  case idle =>
    obtain ⟨hport, hdin⟩ := takeReset_idle s hidle
    exact ⟨_, step_of_resetIn hreset, hport.trans hidle, hdin⟩

end Sys2Proof.Machine
end
